-- ==== Sys2Proof/Word.lean ====
section
/-! DEFINITION. The word types of the block and its two small enumerations: channels and modes (00_scope.md R6, 10_state.md R10, R20). -/

namespace Sys2Proof

/-- A 16-bit word of the downstream side (00_scope.md R5 `WORD_BITS`). -/
abbrev Word16 := BitVec 16

/-- One byte of the transport (00_scope.md R5 `BYTE_BITS`). -/
abbrev Byte := BitVec 8

/-- A 40-bit command word `CMD[39:0]` (30_encoding.md R60, R62). -/
abbrev CmdWord := BitVec 40

/-- A frequency operand `V`, hertz times 128 (30_encoding.md R67). -/
abbrev FreqOperand := BitVec 32

/-- A phase operand `P`, phase input units times 16 (30_encoding.md R68). -/
abbrev PhaseOperand := BitVec 16

/-- A 28-bit tuning word (10_state.md R13). -/
abbrev TuningWord := BitVec 28

/-- A 14-bit half of a tuning word (30_encoding.md R71). -/
abbrev Half := BitVec 14

/-- A 12-bit phase word (10_state.md R14). -/
abbrev PhaseWord := BitVec 12

/-- The two channels, 0 and 1 (00_scope.md R5 `NCHAN`). A one-bit register that names a channel
(10_state.md R18) holds one of these. -/
inductive Chan where
  | ch0
  | ch1
deriving DecidableEq, Repr, Inhabited

/-- The number of a channel (30_encoding.md R64). -/
def Chan.toNat : Chan → Nat
  | .ch0 => 0
  | .ch1 => 1

/-- The one bit that a channel is in a control word (10_state.md R18, R19). -/
def Chan.toBool : Chan → Bool
  | .ch0 => false
  | .ch1 => true

/-- The other channel. -/
def Chan.other : Chan → Chan
  | .ch0 => .ch1
  | .ch1 => .ch0

/-- The five output modes (10_state.md R20). -/
inductive Mode where
  | off
  | sine
  | square1    -- Square@MCLK
  | square2    -- Square@MCLK/2
  | triangle
deriving DecidableEq, Repr, Inhabited

/-- The number of a mode on the command port (30_encoding.md R66). -/
def Mode.toNat : Mode → Nat
  | .off => 0
  | .sine => 1
  | .square1 => 2
  | .square2 => 3
  | .triangle => 4

end Sys2Proof
end

