-- ==== Sys2Proof/Config.lean ====
section
/-! DEFINITION. The parameters of the block with their defaults (00_scope.md R5), their well-formedness conditions, and the uninterpreted power-up values (10_state.md R30). -/

namespace Sys2Proof

/-- Positions of the ten named control fields, the parameters `BIT_*` (10_state.md R16). -/
structure BitPos where
  b28 : Nat
  hlb : Nat
  fselect : Nat
  pselect : Nat
  reset : Nat
  sleep1 : Nat
  sleep12 : Nat
  opbiten : Nat
  div2 : Nat
  mode : Nat
deriving DecidableEq, Repr

/-- The ten positions in the order in which R16 lists the fields. -/
def BitPos.toList (b : BitPos) : List Nat :=
  [b.b28, b.hlb, b.fselect, b.pselect, b.reset, b.sleep1, b.sleep12, b.opbiten, b.div2, b.mode]

/-- The five register selectors, the parameters `SEL_*` (20_memory.md R41). -/
structure Selectors where
  ctrl : Word16
  freq0 : Word16
  freq1 : Word16
  phase0 : Word16
  phase1 : Word16
deriving DecidableEq, Repr

/-- The selector of a channel's frequency register. -/
def Selectors.freq (s : Selectors) : Chan → Word16
  | .ch0 => s.freq0
  | .ch1 => s.freq1

/-- The selector of a channel's phase register. -/
def Selectors.phase (s : Selectors) : Chan → Word16
  | .ch0 => s.phase0
  | .ch1 => s.phase1

/-- The five mode bits of a control word (40_register_model.md R96). -/
structure ModeBits where
  opbiten : Bool
  mode : Bool
  div2 : Bool
  sleep1 : Bool
  sleep12 : Bool
deriving DecidableEq, Repr

/-- The parameter `MODE_BITS`: one set of five bits for each mode (40_register_model.md R96). -/
structure ModeTable where
  off : ModeBits
  sine : ModeBits
  square1 : ModeBits
  square2 : ModeBits
  triangle : ModeBits
deriving DecidableEq, Repr

/-- `MODE_BITS(m)`, total (40_register_model.md R96). -/
def ModeTable.bits (t : ModeTable) : Mode → ModeBits
  | .off => t.off
  | .sine => t.sine
  | .square1 => t.square1
  | .square2 => t.square2
  | .triangle => t.triangle

/-- The parameter `ROUND_TIES`: which way an exact half rounds (40_register_model.md R91 (a)). -/
inductive RoundTies where
  | halfUp
  | halfDown
  | halfEven
deriving DecidableEq, Repr

/-- The parameters of the block that a model takes as arguments (00_scope.md R5; 93_implementation_defined.md
U15, U16, U18). `phaseNum / phaseDen` is `PHASE_SCALE`. See log 1. -/
structure Params where
  fMaster : Nat
  phaseNum : Nat
  phaseDen : Nat
  ties : RoundTies
  defaultFreq : FreqOperand
  defaultPhase : PhaseOperand
  bit : BitPos
  sel : Selectors
  modeTable : ModeTable
deriving DecidableEq, Repr

/-- `HZ_FRAC_BITS` (00_scope.md R5). -/
def hzFracBits : Nat := 7

/-- `PH_FRAC_BITS` (00_scope.md R5). -/
def phFracBits : Nat := 4

/-- The defaults of 00_scope.md R5. PRESUMED (log 1): the bit positions, the selectors and the mode table are
general knowledge of the chip, not in the source. -/
def Params.default : Params where
  fMaster := 25000000
  phaseNum := 512
  phaseDen := 450
  ties := .halfUp
  defaultFreq := 128000#32
  defaultPhase := 0#16
  bit :=
    { b28 := 13, hlb := 12, fselect := 11, pselect := 10, reset := 8, sleep1 := 7, sleep12 := 6,
      opbiten := 5, div2 := 3, mode := 1 }
  sel := { ctrl := 0x0000#16, freq0 := 0x4000#16, freq1 := 0x8000#16, phase0 := 0xC000#16, phase1 := 0xE000#16 }
  modeTable :=
    { off := ⟨false, false, false, true, true⟩
      sine := ⟨false, false, false, false, false⟩
      square1 := ⟨true, false, true, false, false⟩
      square2 := ⟨true, false, false, false, false⟩
      triangle := ⟨false, true, false, false, false⟩ }

/-- The ten positions are pairwise distinct and below 14 (10_state.md R16; 92_eei_decisions.md D18). -/
def BitPos.wf (b : BitPos) : Bool :=
  b.toList.all (· < 14) && decide b.toList.Nodup

/-- Bits 15:14 of a word, which tell its register (20_memory.md R41). -/
def topCode (w : Word16) : BitVec 2 := w.extractLsb' 14 2

/-- The conditions of 20_memory.md R41 on the selectors. `SEL_CTRL` is zero besides: DEDUCED (log 14) from
10_state.md R29 I7, R31 and 41_write_commands.md R111, which make `CW`, all zero but for its fields, a control write. -/
def Selectors.wf (s : Selectors) : Bool :=
  s.ctrl == 0#16
    && s.freq0.extractLsb' 0 14 == 0#14 && s.freq1.extractLsb' 0 14 == 0#14
    && s.phase0.extractLsb' 0 13 == 0#13 && s.phase1.extractLsb' 0 13 == 0#13
    && decide [topCode s.ctrl, topCode s.freq0, topCode s.freq1, topCode s.phase0].Nodup
    && topCode s.phase1 == topCode s.phase0
    && s.phase0 != s.phase1

/-- The mode table is injective (40_register_model.md R96; 92_eei_decisions.md D19). -/
def ModeTable.wf (t : ModeTable) : Bool :=
  decide [t.off, t.sine, t.square1, t.square2, t.triangle].Nodup

/-- The conditions that the spec puts on the parameters: 40_register_model.md R106 (`F_MASTER > 0`; the divisor of
the phase scale is non-zero), R96; 10_state.md R16; 20_memory.md R41; 92_eei_decisions.md D10 (`DEFAULT_FREQ`). -/
def Params.wf (p : Params) : Bool :=
  decide (0 < p.fMaster) && decide (0 < p.phaseDen) && decide (p.defaultFreq.toNat ≤ 3199999994)
    && p.bit.wf && p.sel.wf && p.modeTable.wf

/-! The values that the spec leaves unspecified at power-up (10_state.md R30: "a model may leave them without a
value; it must not pick zero"). No body can be unfolded, so nothing can be proved of them (log 2, log 3). -/

namespace Config

/-- `CW` at power-up. DESIGN CHOICE (log 2). -/
opaque powerUpCw : Word16

/-- `FREQ_USER[c]` at power-up. DESIGN CHOICE (log 2). -/
opaque powerUpFreqUser : Chan → FreqOperand

/-- `PHASE_USER[c]` at power-up. DESIGN CHOICE (log 2). -/
opaque powerUpPhaseUser : Chan → PhaseOperand

/-- `FREQ_WORD[c]` at power-up. DESIGN CHOICE (log 2). -/
opaque powerUpFreqWord : Chan → TuningWord

/-- `PHASE_WORD[c]` at power-up. DESIGN CHOICE (log 2). -/
opaque powerUpPhaseWord : Chan → PhaseWord

/-- `FSEL_ACTIVE` at power-up. DESIGN CHOICE (log 2). -/
opaque powerUpFsel : Chan

/-- `PSEL_ACTIVE` at power-up. DESIGN CHOICE (log 2). -/
opaque powerUpPsel : Chan

/-- `MODE_CACHE` at power-up. DESIGN CHOICE (log 2). -/
opaque powerUpMode : Mode

/-- `FRAME` at power-up. DESIGN CHOICE (log 3). -/
opaque powerUpFrame : Bool

end Config

end Sys2Proof
end

