-- ==== Sys2Proof/Syntax.lean ====
section
/-! DEFINITION. The instructions: the twelve commands of the command port and the five emitted word formats (30_encoding.md R62, R70 to R72, R78), one constructor for each row of spec/opcode_table.json. -/

namespace Sys2Proof

/-- The eight fields of an emitted control word that are not fixed: `FP0R SsO0 D0M0` (30_encoding.md R70, R78). -/
structure CtrlFields where
  fselect : Bool
  pselect : Bool
  reset : Bool
  sleep1 : Bool
  sleep12 : Bool
  opbiten : Bool
  div2 : Bool
  mode : Bool
deriving DecidableEq, Repr

/-- One constructor for each row of spec/opcode_table.json. Channel and mode operands keep the four bits of their
field: range checks are part of validation, not of decoding (30_encoding.md R64, R66, R79). -/
inductive Instr where
  | init
  | setfreq (c : BitVec 4) (v : FreqOperand)
  | getfreq (c : BitVec 4)
  | setphase (c : BitVec 4) (ph : PhaseOperand)
  | getphase (c : BitVec 4)
  | setmode (m : BitVec 4)
  | getmode
  | setfsel (c : BitVec 4)
  | getfsel
  | setpsel (c : BitVec 4)
  | getpsel
  | reset (hold : Bool)
  | w16Ctrl (f : CtrlFields)
  | w16Freq0 (h : Half)
  | w16Freq1 (h : Half)
  | w16Phase0 (q : PhaseWord)
  | w16Phase1 (q : PhaseWord)
deriving DecidableEq, Repr

/-- The mnemonic of an instruction's row in spec/opcode_table.json. -/
def Instr.mnemonic : Instr → String
  | .init => "INIT"
  | .setfreq _ _ => "SETFREQ"
  | .getfreq _ => "GETFREQ"
  | .setphase _ _ => "SETPHASE"
  | .getphase _ => "GETPHASE"
  | .setmode _ => "SETMODE"
  | .getmode => "GETMODE"
  | .setfsel _ => "SETFSEL"
  | .getfsel => "GETFSEL"
  | .setpsel _ => "SETPSEL"
  | .getpsel => "GETPSEL"
  | .reset _ => "RESET"
  | .w16Ctrl _ => "W16.CTRL"
  | .w16Freq0 _ => "W16.FREQ0"
  | .w16Freq1 _ => "W16.FREQ1"
  | .w16Phase0 _ => "W16.PHASE0"
  | .w16Phase1 _ => "W16.PHASE1"

/-- An instruction of the command port, as against an emitted word. -/
def Instr.isCommand : Instr → Bool
  | .init | .setfreq _ _ | .getfreq _ | .setphase _ _ | .getphase _ | .setmode _ | .getmode
  | .setfsel _ | .getfsel | .setpsel _ | .getpsel | .reset _ => true
  | .w16Ctrl _ | .w16Freq0 _ | .w16Freq1 _ | .w16Phase0 _ | .w16Phase1 _ => false

end Sys2Proof
end

