-- ==== Sys2Proof/Machine/Bits.lean ====
section
/-! DEFINITION. Bit-field helpers, the emitted word formats and the byte order of a word (00_scope.md R7; 30_encoding.md R70 to R73; 20_memory.md R44). -/

namespace Sys2Proof

/-- The word with one bit set, `1 << i`. -/
def bitAt (i : Nat) : Word16 := 1#16 <<< i

/-- `set(cw, BIT_X, b)`: `(cw & ~(1 << BIT_X)) | (b << BIT_X)` (00_scope.md R7). -/
def setBit (w : Word16) (i : Nat) (b : Bool) : Word16 :=
  (w &&& ~~~(bitAt i)) ||| (if b then bitAt i else 0#16)

/-- `FLO(c, T) = SEL_FREQc | T[13:0]` (30_encoding.md R71). -/
def floWord (p : Params) (c : Chan) (t : TuningWord) : Word16 :=
  p.sel.freq c ||| (t.extractLsb' 0 14).setWidth 16

/-- `FHI(c, T) = SEL_FREQc | T[27:14]` (30_encoding.md R71). -/
def fhiWord (p : Params) (c : Chan) (t : TuningWord) : Word16 :=
  p.sel.freq c ||| (t.extractLsb' 14 14).setWidth 16

/-- `PHW(c, Q) = SEL_PHASEc | Q[11:0]` (30_encoding.md R72). -/
def phWord (p : Params) (c : Chan) (q : PhaseWord) : Word16 :=
  p.sel.phase c ||| q.setWidth 16

/-- A frequency word that carries the half `h` (30_encoding.md R71: low and high words have one bit pattern). -/
def freqHalfWord (p : Params) (c : Chan) (h : Half) : Word16 :=
  p.sel.freq c ||| h.setWidth 16

/-- The bits of a control word that are not fixed (30_encoding.md R78, `W16.CTRL`). -/
def ctrlFieldMask (p : Params) : Word16 :=
  bitAt p.bit.fselect ||| bitAt p.bit.pselect ||| bitAt p.bit.reset ||| bitAt p.bit.sleep1
    ||| bitAt p.bit.sleep12 ||| bitAt p.bit.opbiten ||| bitAt p.bit.div2 ||| bitAt p.bit.mode

/-- The fixed bits of a control word: the selector, `B28 = 1`, `HLB` and the unnamed bits 0
(30_encoding.md R75, R78). -/
def ctrlFixedBits (p : Params) : Word16 := p.sel.ctrl ||| bitAt p.bit.b28

/-- The control word with the given fields, format `W16.CTRL` (30_encoding.md R70, R78). -/
def ctrlWord (p : Params) (f : CtrlFields) : Word16 :=
  ctrlFixedBits p
    ||| (if f.fselect then bitAt p.bit.fselect else 0#16)
    ||| (if f.pselect then bitAt p.bit.pselect else 0#16)
    ||| (if f.reset then bitAt p.bit.reset else 0#16)
    ||| (if f.sleep1 then bitAt p.bit.sleep1 else 0#16)
    ||| (if f.sleep12 then bitAt p.bit.sleep12 else 0#16)
    ||| (if f.opbiten then bitAt p.bit.opbiten else 0#16)
    ||| (if f.div2 then bitAt p.bit.div2 else 0#16)
    ||| (if f.mode then bitAt p.bit.mode else 0#16)

/-- The fields of a control word (30_encoding.md R70). -/
def ctrlFieldsOf (p : Params) (w : Word16) : CtrlFields where
  fselect := w.getLsbD p.bit.fselect
  pselect := w.getLsbD p.bit.pselect
  reset := w.getLsbD p.bit.reset
  sleep1 := w.getLsbD p.bit.sleep1
  sleep12 := w.getLsbD p.bit.sleep12
  opbiten := w.getLsbD p.bit.opbiten
  div2 := w.getLsbD p.bit.div2
  mode := w.getLsbD p.bit.mode

/-- `w[15:8]`, the byte sent first (20_memory.md R44). -/
def highByte (w : Word16) : Byte := w.extractLsb' 8 8

/-- `w[7:0]`, the byte sent second (20_memory.md R44). -/
def lowByte (w : Word16) : Byte := w.extractLsb' 0 8

/-- The word of a frame from its two bytes, high byte first (20_memory.md R44). -/
def wordOfBytes (hi lo : Byte) : Word16 := hi ++ lo

end Sys2Proof
end

