-- ==== Sys2Proof/Decode.lean ====
section
/-! DEFINITION. Decoding and encoding of the command words and of the emitted words (30_encoding.md R62 to R66, R69 to R72, R78, R79). -/

namespace Sys2Proof

/-- What a decoder is given: a command word of the command port, or a word that the chip has received. There is one
command length and one emitted length (30_encoding.md R81). -/
inductive FetchWord where
  | cmd40 (w : CmdWord)
  | w16 (w : Word16)
deriving DecidableEq, Repr

/-- Why a word is no instruction. -/
inductive DecodeError where
  /-- `OP` in 0xC to 0xF (30_encoding.md R74). -/
  | reservedOp
  /-- A must-be-zero bit is set (30_encoding.md R69). -/
  | mustBeZero
  /-- A 16-bit word of none of the five emitted formats (30_encoding.md R75, R78). -/
  | notEmitted
deriving DecidableEq, Repr

/-- The result of decoding: the instruction, or `Invalid` with its cause (30_encoding.md R79). -/
inductive Decoded where
  | ok (i : Instr)
  | invalid (why : DecodeError)
deriving DecidableEq, Repr

/-- `OP = CMD[39:36]` (30_encoding.md R63). -/
def cmdOp (w : CmdWord) : BitVec 4 := w.extractLsb' 36 4

/-- `ARG = CMD[35:32]` (30_encoding.md R62). -/
def cmdArg (w : CmdWord) : BitVec 4 := w.extractLsb' 32 4

/-- `VAL = CMD[31:0]` (30_encoding.md R62). -/
def cmdVal (w : CmdWord) : BitVec 32 := w.extractLsb' 0 32

/-- A command with a must-be-zero condition (30_encoding.md R69). -/
def needZero (cond : Bool) (i : Instr) : Decoded := if cond then .ok i else .invalid .mustBeZero

/-- The command decoder (30_encoding.md R62, R69, R79). -/
def decodeCmd (w : CmdWord) : Decoded :=
  let arg := cmdArg w
  let val := cmdVal w
  match (cmdOp w).toNat with
  | 0x0 => needZero (arg == 0#4 && val == 0#32) .init
  | 0x1 => .ok (.setfreq arg val)
  | 0x2 => needZero (val == 0#32) (.getfreq arg)
  | 0x3 => needZero (val.extractLsb' 16 16 == 0#16) (.setphase arg (val.extractLsb' 0 16))
  | 0x4 => needZero (val == 0#32) (.getphase arg)
  | 0x5 => needZero (val == 0#32) (.setmode arg)
  | 0x6 => needZero (arg == 0#4 && val == 0#32) .getmode
  | 0x7 => needZero (val == 0#32) (.setfsel arg)
  | 0x8 => needZero (arg == 0#4 && val == 0#32) .getfsel
  | 0x9 => needZero (val == 0#32) (.setpsel arg)
  | 0xA => needZero (arg == 0#4 && val == 0#32) .getpsel
  | 0xB => needZero (arg.extractLsb' 1 3 == 0#3 && val == 0#32) (.reset (arg.getLsbD 0))
  | _ => .invalid .reservedOp

/-- The decoder of emitted words: the five formats of 30_encoding.md R78, with the parameters in place of their
defaults. -/
def decodeW16 (p : Params) (w : Word16) : Decoded :=
  if w &&& ~~~(ctrlFieldMask p) = ctrlFixedBits p then .ok (.w16Ctrl (ctrlFieldsOf p w))
  else if w &&& 0xC000#16 = p.sel.freq0 then .ok (.w16Freq0 (w.extractLsb' 0 14))
  else if w &&& 0xC000#16 = p.sel.freq1 then .ok (.w16Freq1 (w.extractLsb' 0 14))
  else if w &&& 0xF000#16 = p.sel.phase0 then .ok (.w16Phase0 (w.extractLsb' 0 12))
  else if w &&& 0xF000#16 = p.sel.phase1 then .ok (.w16Phase1 (w.extractLsb' 0 12))
  else .invalid .notEmitted

/-- Decoding, total on every 40-bit and every 16-bit word (30_encoding.md R74, R79). -/
def decode (p : Params) : FetchWord → Decoded
  | .cmd40 w => decodeCmd w
  | .w16 w => decodeW16 p w

/-- `OP` of a command (30_encoding.md R62). -/
def cmdWordOf (op arg : BitVec 4) (val : BitVec 32) : CmdWord := op ++ arg ++ val

/-- The word of an instruction (30_encoding.md R62, R70 to R72). -/
def encode (p : Params) : Instr → FetchWord
  | .init => .cmd40 (cmdWordOf 0x0#4 0#4 0#32)
  | .setfreq c v => .cmd40 (cmdWordOf 0x1#4 c v)
  | .getfreq c => .cmd40 (cmdWordOf 0x2#4 c 0#32)
  | .setphase c ph => .cmd40 (cmdWordOf 0x3#4 c (ph.setWidth 32))
  | .getphase c => .cmd40 (cmdWordOf 0x4#4 c 0#32)
  | .setmode m => .cmd40 (cmdWordOf 0x5#4 m 0#32)
  | .getmode => .cmd40 (cmdWordOf 0x6#4 0#4 0#32)
  | .setfsel c => .cmd40 (cmdWordOf 0x7#4 c 0#32)
  | .getfsel => .cmd40 (cmdWordOf 0x8#4 0#4 0#32)
  | .setpsel c => .cmd40 (cmdWordOf 0x9#4 c 0#32)
  | .getpsel => .cmd40 (cmdWordOf 0xA#4 0#4 0#32)
  | .reset hold => .cmd40 (cmdWordOf 0xB#4 ((BitVec.ofBool hold).setWidth 4) 0#32)
  | .w16Ctrl f => .w16 (ctrlWord p f)
  | .w16Freq0 h => .w16 (freqHalfWord p .ch0 h)
  | .w16Freq1 h => .w16 (freqHalfWord p .ch1 h)
  | .w16Phase0 q => .w16 (phWord p .ch0 q)
  | .w16Phase1 q => .w16 (phWord p .ch1 q)

/-- A row of the encoding tables: mnemonic, match, mask (30_encoding.md R78). -/
structure EncRow (n : Nat) where
  mnemonic : String
  pat : BitVec n
  mask : BitVec n
deriving DecidableEq, Repr

/-- A word decodes to the row with `(w & mask) == match` (30_encoding.md R78). -/
def EncRow.covers {n : Nat} (r : EncRow n) (w : BitVec n) : Bool := w &&& r.mask == r.pat

/-- The command table of 30_encoding.md R78. -/
def cmdTable : List (EncRow 40) :=
  [ ⟨"INIT", 0x0000000000#40, 0xFFFFFFFFFF#40⟩, ⟨"SETFREQ", 0x1000000000#40, 0xF000000000#40⟩,
    ⟨"GETFREQ", 0x2000000000#40, 0xF0FFFFFFFF#40⟩, ⟨"SETPHASE", 0x3000000000#40, 0xF0FFFF0000#40⟩,
    ⟨"GETPHASE", 0x4000000000#40, 0xF0FFFFFFFF#40⟩, ⟨"SETMODE", 0x5000000000#40, 0xF0FFFFFFFF#40⟩,
    ⟨"GETMODE", 0x6000000000#40, 0xFFFFFFFFFF#40⟩, ⟨"SETFSEL", 0x7000000000#40, 0xF0FFFFFFFF#40⟩,
    ⟨"GETFSEL", 0x8000000000#40, 0xFFFFFFFFFF#40⟩, ⟨"SETPSEL", 0x9000000000#40, 0xF0FFFFFFFF#40⟩,
    ⟨"GETPSEL", 0xA000000000#40, 0xFFFFFFFFFF#40⟩, ⟨"RESET", 0xB000000000#40, 0xFEFFFFFFFF#40⟩ ]

/-- The table of the emitted words of 30_encoding.md R78, default parameters. -/
def w16Table : List (EncRow 16) :=
  [ ⟨"W16.CTRL", 0x2000#16, 0xF215#16⟩, ⟨"W16.FREQ0", 0x4000#16, 0xC000#16⟩,
    ⟨"W16.FREQ1", 0x8000#16, 0xC000#16⟩, ⟨"W16.PHASE0", 0xC000#16, 0xF000#16⟩,
    ⟨"W16.PHASE1", 0xE000#16, 0xF000#16⟩ ]

/-- The instruction of a word, if it is one. -/
def Decoded.toOption : Decoded → Option Instr
  | .ok i => some i
  | .invalid _ => none

/-- What the decoder reads from a word numbered as spec/opcode_table.json numbers it: rows of at most 16 bits are
emitted words, read with the default parameters; the others are command words (log 22). -/
def decodeTableWord (nbits w : Nat) : Option Instr :=
  if nbits ≤ 16 then
    if w < 2 ^ 16 then (decode Params.default (.w16 (BitVec.ofNat 16 w))).toOption else none
  else if w < 2 ^ 40 then (decode Params.default (.cmd40 (BitVec.ofNat 40 w))).toOption
  else none

end Sys2Proof
end

