-- ==== Sys2Proof/Machine/State.lean ====
section
/-! DEFINITION. The state of the machine as plain data (10_state.md), the reasons for which a step stops, and the state at power-up (10_state.md R30, 70_reset_and_hazards.md R171). -/

namespace Sys2Proof.Machine

/-- The four registers of a channel (10_state.md R11 to R14). -/
structure Channel where
  freqUser : FreqOperand
  phaseUser : PhaseOperand
  freqWord : TuningWord
  phaseWord : PhaseWord
deriving DecidableEq, Repr

/-- The architectural state of the block, exactly the elements of 10_state.md R10. -/
structure Arch where
  /-- `CW` (R15). -/
  cw : Word16
  /-- The registers of channel 0. -/
  ch0 : Channel
  /-- The registers of channel 1. -/
  ch1 : Channel
  /-- `FSEL_ACTIVE` (R18). -/
  fselActive : Chan
  /-- `PSEL_ACTIVE` (R18). -/
  pselActive : Chan
  /-- `MODE_CACHE` (R20). -/
  modeCache : Mode
  /-- `INIT_DONE` (R22). -/
  initDone : Bool
deriving DecidableEq, Repr

/-- The phase `ph` of the sequencer inside the current frame (10_state.md R25): `IDLE`, `CFG`, `BEGIN`, `HI`, `LO`,
`END`. -/
inductive Phase where
  | idle
  | cfg
  | frameBegin
  | hi
  | lo
  | frameEnd
deriving DecidableEq, Repr

/-- `SEQ = (list, idx, ph)` (10_state.md R25). -/
structure Seq where
  words : List Word16
  idx : Nat
  ph : Phase
deriving DecidableEq, Repr

/-- `([], 0, IDLE)`, the position when `BUSY = 0` (10_state.md R25). -/
def Seq.atRest : Seq := ⟨[], 0, .idle⟩

/-- `STATUS` of a response (30_encoding.md R61; 60_exceptions.md R154). -/
inductive Status where
  | ok
  | errInvalid
  | errNotInit
deriving DecidableEq, Repr

/-- The code `STATUS[1:0]` (30_encoding.md R61). -/
def Status.code : Status → BitVec 2
  | .ok => 0#2
  | .errInvalid => 1#2
  | .errNotInit => 2#2

/-- `RSP = {STATUS[1:0], RVAL[31:0]}` (30_encoding.md R61). -/
structure Response where
  status : Status
  rval : BitVec 32
deriving DecidableEq, Repr

/-- The response as the port drives it, `STATUS` in the high bits (30_encoding.md R61). -/
def Response.bits (r : Response) : BitVec 34 := r.status.code ++ r.rval

/-- An event of the transport trace: one completed transport call (00_scope.md R8; 42_sequencer.md R130; log 6). -/
inductive Event where
  | configure
  | frameBegin
  | byte (b : Byte)
  | frameEnd
deriving DecidableEq, Repr

/-- How the transport serves one call: it completes after `wait` further steps and returns `miso`, or it never
completes (42_sequencer.md R135, R136, R138; log 5). -/
inductive Reply where
  | completes (wait : Nat) (miso : Byte)
  | never
deriving DecidableEq, Repr

/-- The reference receiver's registers of one channel: the two halves of `D.FREQ[c]` and `D.PHASE[c]`. "All
registers start without a value" (20_memory.md R57; log 9). -/
structure DevChan where
  freqLo : Option Half
  freqHi : Option Half
  phase : Option PhaseWord
deriving DecidableEq, Repr

/-- The reference receiver (20_memory.md R57): what the chip holds. `load` is `D.LOAD`: `none`, or `some c` for
`low(c)`; `fault` is the sticky `D.FAULT`. -/
structure Dev where
  ctrl : Option Word16
  ch0 : DevChan
  ch1 : DevChan
  load : Option Chan
  fault : Bool
deriving DecidableEq, Repr

/-- The receiver before any word (20_memory.md R57; log 9). -/
def Dev.empty : Dev := ⟨none, ⟨none, none, none⟩, ⟨none, none, none⟩, none, false⟩

/-- The state of the machine: the block, its ports, the transport and the reference receiver. -/
structure State where
  /-- The parameters of the build (00_scope.md R5); no step changes them (log 1). -/
  params : Params
  /-- The architectural state (10_state.md R10). -/
  arch : Arch
  /-- `BUSY` (10_state.md R23). -/
  busy : Bool
  /-- `SEQ` (10_state.md R25). -/
  seq : Seq
  /-- The pending copy, held while a command runs (10_state.md R24; log 24). -/
  pending : Option Arch
  /-- `FRAME`: the framing signal is asserted (10_state.md R26). -/
  frame : Bool
  /-- The command port: the words the caller presents, in order. The head stands on the port with
  `CMD_VALID = 1`; an empty list is `CMD_VALID = 0` (30_encoding.md R60; log 4). -/
  caller : List CmdWord
  /-- The response port: `some r` is `RSP_VALID = 1` (30_encoding.md R61; log 7). -/
  rsp : Option Response
  /-- How the transport serves the coming calls, in order; beyond the list a call completes at once (log 5). -/
  script : List Reply
  /-- The transport trace, oldest first (00_scope.md R8). -/
  trace : List Event
  /-- The responses given, oldest first (00_scope.md R8). -/
  rspLog : List Response
  /-- The bytes transferred in the open frame, as the chip's input holds them (42_sequencer.md R131; log 10). -/
  rxBytes : List Byte
  /-- The reference receiver (20_memory.md R57; log 8). -/
  dev : Dev
deriving DecidableEq, Repr

/-- The reasons for which a step stops with a fault. -/
inductive Fault where
  /-- Raised by the sequencer (Machine/Sequencer.lean) in a state with `BUSY = 1` whose `SEQ` is none of 10_state.md
  R25's: the phase is `IDLE`, or a byte is due of a word beyond the list. No run reaches such a state. Safe: the
  model stops where the spec says nothing (log 12). -/
  | seqPosition
deriving DecidableEq, Repr

/-- The reasons for which a step is refused. -/
inductive Refusal where
  /-- Raised by an arm of `exec` for an instruction that has no meaning yet. No arm does. Safe. -/
  | notModelled (mnemonic : String)
deriving DecidableEq, Repr

/-- A channel's registers at power-up, unspecified (10_state.md R30; log 2). -/
def powerUpChannel (c : Chan) : Channel :=
  ⟨Config.powerUpFreqUser c, Config.powerUpPhaseUser c, Config.powerUpFreqWord c, Config.powerUpPhaseWord c⟩

/-- The architectural state at power-up: `INIT_DONE = 0`, every other element unspecified (10_state.md R30; log 2). -/
def powerUpArch : Arch where
  cw := Config.powerUpCw
  ch0 := powerUpChannel .ch0
  ch1 := powerUpChannel .ch1
  fselActive := Config.powerUpFsel
  pselActive := Config.powerUpPsel
  modeCache := Config.powerUpMode
  initDone := false

/-- The machine after power-up, the only reset of the block (10_state.md R30; 70_reset_and_hazards.md R170, R171). -/
def State.reset : State where
  params := Params.default
  arch := powerUpArch
  busy := false
  seq := Seq.atRest
  pending := none
  frame := Config.powerUpFrame
  caller := []
  rsp := none
  script := []
  trace := []
  rspLog := []
  rxBytes := []
  dev := Dev.empty

end Sys2Proof.Machine
end

