-- ==== Sys2Proof/Machine/Flags.lean ====
section
/-! DEFINITION. The bits of the control word: mode pattern, channel selects and reset (40_register_model.md R96 to R99). The block has no condition flags (40_register_model.md R106 (f)). -/

namespace Sys2Proof.Machine

/-- `MODE_MASK`, the five mode bits (40_register_model.md R96). -/
def modeMask (p : Params) : Word16 :=
  bitAt p.bit.opbiten ||| bitAt p.bit.mode ||| bitAt p.bit.div2 ||| bitAt p.bit.sleep1 ||| bitAt p.bit.sleep12

/-- A pattern of mode bits in a control word. -/
def modeBitsWord (p : Params) (b : ModeBits) : Word16 :=
  (if b.opbiten then bitAt p.bit.opbiten else 0#16)
    ||| (if b.mode then bitAt p.bit.mode else 0#16)
    ||| (if b.div2 then bitAt p.bit.div2 else 0#16)
    ||| (if b.sleep1 then bitAt p.bit.sleep1 else 0#16)
    ||| (if b.sleep12 then bitAt p.bit.sleep12 else 0#16)

/-- `MODE_PAT(m)` (40_register_model.md R96). -/
def modePat (p : Params) (m : Mode) : Word16 := modeBitsWord p (p.modeTable.bits m)

/-- `applyMode(cw, m) = (cw & ~MODE_MASK) | MODE_PAT(m)` (40_register_model.md R97). -/
def applyMode (p : Params) (cw : Word16) (m : Mode) : Word16 := (cw &&& ~~~(modeMask p)) ||| modePat p m

/-- `which` in {F, P}: the frequency or the phase selection (40_register_model.md R98). -/
inductive Which where
  | freq
  | phase
deriving DecidableEq, Repr

/-- The bit of a selection: `BIT_FSELECT` or `BIT_PSELECT` (40_register_model.md R98). -/
def selBit (p : Params) : Which → Nat
  | .freq => p.bit.fselect
  | .phase => p.bit.pselect

/-- `applySel(cw, which, c)` (40_register_model.md R98). -/
def applySel (p : Params) (cw : Word16) (which : Which) (c : Chan) : Word16 :=
  setBit cw (selBit p which) c.toBool

/-- `applyReset(cw, r) = set(cw, BIT_RESET, r)` (40_register_model.md R99). -/
def applyReset (p : Params) (cw : Word16) (r : Bool) : Word16 := setBit cw p.bit.reset r

/-- The bit `CW[BIT_RESET]`: the chip's reset is held (41_write_commands.md R117). -/
def resetHeld (p : Params) (cw : Word16) : Bool := cw.getLsbD p.bit.reset

/-- The five mode bits of a control word, as `MODE_BITS` names them (10_state.md R21). -/
def modeBitsOf (p : Params) (cw : Word16) : ModeBits where
  opbiten := cw.getLsbD p.bit.opbiten
  mode := cw.getLsbD p.bit.mode
  div2 := cw.getLsbD p.bit.div2
  sleep1 := cw.getLsbD p.bit.sleep1
  sleep12 := cw.getLsbD p.bit.sleep12

end Sys2Proof.Machine
end

