-- ==== Sys2Proof/Machine/Operands.lean ====
section
/-! DEFINITION. Operands: channel and mode numbers (30_encoding.md R64, R66), the fixed-point quantizers QF and QP (40_register_model.md R90 to R95), and the values that the accessors return (30_encoding.md R80). -/

namespace Sys2Proof.Machine

/-- The channel of a channel operand; none outside {0, 1} (30_encoding.md R64; 60_exceptions.md R152 (f)). -/
def chanOf (c : BitVec 4) : Option Chan :=
  match c.toNat with
  | 0 => some .ch0
  | 1 => some .ch1
  | _ => none

/-- The mode of a mode operand; none outside the five (30_encoding.md R66; 60_exceptions.md R152 (g)). -/
def modeOf (m : BitVec 4) : Option Mode :=
  match m.toNat with
  | 0 => some .off
  | 1 => some .sine
  | 2 => some .square1
  | 3 => some .square2
  | 4 => some .triangle
  | _ => none

/-- The integer nearest to `n / d`, `d > 0`, an exact half going the way `ROUND_TIES` says (40_register_model.md
R90, R91 (a); log 13). Half up is `floor(n/d + 1/2)`, half down is `ceil(n/d - 1/2)`. -/
def roundDiv (t : RoundTies) (n d : Nat) : Nat :=
  match t with
  | .halfUp => (2 * n + d) / (2 * d)
  | .halfDown => (2 * n + d - 1) / (2 * d)
  | .halfEven =>
    if (2 * n + d) % (2 * d) = 0 ∧ (2 * n + d) / (2 * d) % 2 = 1 then (2 * n + d) / (2 * d) - 1
    else (2 * n + d) / (2 * d)

/-- `QF_full(V)`: `(V / 2^HZ_FRAC_BITS) * 2^28 / F_MASTER` rounded to nearest, unbounded (40_register_model.md R90). -/
def qfFull (p : Params) (v : FreqOperand) : Nat :=
  roundDiv p.ties (v.toNat * 2 ^ 28) (2 ^ hzFracBits * p.fMaster)

/-- `QF(V) = QF_full(V) mod 2^28` (40_register_model.md R90, R91). -/
def qf (p : Params) (v : FreqOperand) : TuningWord := BitVec.ofNat 28 (qfFull p v)

/-- `QP_full(P)`: `(P / 2^PH_FRAC_BITS) * PHASE_SCALE` rounded to nearest, unbounded (40_register_model.md R93). -/
def qpFull (p : Params) (ph : PhaseOperand) : Nat :=
  roundDiv p.ties (ph.toNat * p.phaseNum) (2 ^ phFracBits * p.phaseDen)

/-- `QP(P) = QP_full(P) mod 2^12` (40_register_model.md R93, R94). -/
def qp (p : Params) (ph : PhaseOperand) : PhaseWord := BitVec.ofNat 12 (qpFull p ph)

/-- The registers of channel `c`. -/
def Arch.chan (a : Arch) : Chan → Channel
  | .ch0 => a.ch0
  | .ch1 => a.ch1

/-- The registers of channel `c` replaced. -/
def Arch.setChan (a : Arch) (c : Chan) (r : Channel) : Arch :=
  match c with
  | .ch0 => { a with ch0 := r }
  | .ch1 => { a with ch1 := r }

/-- A frequency operand stored: the user value bit for bit, and its tuning word (10_state.md R11, R13). -/
def Channel.setFreq (r : Channel) (p : Params) (v : FreqOperand) : Channel :=
  { r with freqUser := v, freqWord := qf p v }

/-- A phase operand stored: the user value bit for bit, and its phase word (10_state.md R12, R14). -/
def Channel.setPhase (r : Channel) (p : Params) (ph : PhaseOperand) : Channel :=
  { r with phaseUser := ph, phaseWord := qp p ph }

/-- `zext_32` of a channel number (30_encoding.md R80). -/
def chanValue (c : Chan) : BitVec 32 := BitVec.ofNat 32 c.toNat

/-- `zext_32` of a mode number (30_encoding.md R80). -/
def modeValue (m : Mode) : BitVec 32 := BitVec.ofNat 32 m.toNat

/-- `zext_32` of a phase operand (30_encoding.md R80). -/
def phaseValue (ph : PhaseOperand) : BitVec 32 := ph.setWidth 32

end Sys2Proof.Machine
end

