-- ==== Sys2Proof/Machine/Ops.lean ====
section
/-! DEFINITION. The shared operations: response, rejection (the block's form of an exception), validation, the start and the end of a command (60_exceptions.md R150, R151; 42_sequencer.md R133), the transport calls (42_sequencer.md R130, R131), and the reference receiver (20_memory.md R57). -/

namespace Sys2Proof.Machine

/-- The three outcomes of a step of this machine. -/
abbrev Result := Host.Outcome State Fault Refusal

/-- `respond(status, value)`: drive the response port for one step (30_encoding.md R61). -/
def respond (st : Status) (v : BitVec 32) (s : State) : State :=
  { s with rsp := some ⟨st, v⟩, rspLog := s.rspLog ++ [⟨st, v⟩] }

/-- `reject <STATUS>`: the response `(<STATUS>, 0)` and nothing else (60_exceptions.md R151). Nothing is saved and
nothing is entered, so there is nothing to return from (60_exceptions.md R156). -/
def reject (st : Status) (s : State) : State := respond st 0#32 s

/-- Check 3 of validation: `ERR_NOT_INIT` while `INIT_DONE = 0` (60_exceptions.md R150, R153). -/
def needInit (s : State) (k : Result) : Result :=
  if s.arch.initDone then k else .next (reject .errNotInit s)

/-- Checks 2 and 3 for a command with a channel operand (60_exceptions.md R150, R152 (f), R155). -/
def withChan (c : BitVec 4) (s : State) (k : Chan → Result) : Result :=
  match chanOf c with
  | none => .next (reject .errInvalid s)
  | some ch => needInit s (k ch)

/-- Checks 2 and 3 for a command with a mode operand (60_exceptions.md R150, R152 (g), R155). -/
def withMode (m : BitVec 4) (s : State) (k : Mode → Result) : Result :=
  match modeOf m with
  | none => .next (reject .errInvalid s)
  | some md => needInit s (k md)

/-- `commit`: the pending copy becomes architectural in one step (10_state.md R24; 42_sequencer.md R133). -/
def commit (s : State) : State :=
  match s.pending with
  | some a => { s with arch := a, pending := none }
  | none => s

/-- What a command computes in stage 2: the words it emits and the state it commits (41_write_commands.md R110). -/
structure Effect where
  words : List Word16
  arch : Arch
deriving DecidableEq, Repr

/-- `start(L, cfg)` for a command that emits words: the sequencer takes the list, the pending copy is held
(42_sequencer.md R133; 10_state.md R24). -/
def startWrite (cfg : Bool) (e : Effect) (s : State) : State :=
  { s with
    busy := true
    seq := ⟨e.words, 0, if cfg then .cfg else .frameBegin⟩
    pending := some e.arch }

/-- `start` for an accessor: nothing to send, answered in one step (42_sequencer.md R133; 40_register_model.md R105). -/
def answer (v : BitVec 32) (s : State) : State := respond .ok v s

/-- `finish`: commit, `respond(OK, 0)`, `BUSY <- 0`, `SEQ <- ([], 0, IDLE)` (42_sequencer.md R133). -/
def finish (s : State) : State :=
  { respond .ok 0#32 (commit s) with busy := false, seq := Seq.atRest }

/-- One more event in the transport trace (00_scope.md R8). -/
def emitEvent (e : Event) (s : State) : State := { s with trace := s.trace ++ [e] }

/-- `configure()` completed: its only effect is the trace event (42_sequencer.md R132, R143; log 3). -/
def doConfigure (s : State) : State := emitEvent .configure s

/-- `beginFrame()` completed: the framing signal is asserted (42_sequencer.md R131). -/
def doBeginFrame (s : State) : State := { emitEvent .frameBegin s with frame := true, rxBytes := [] }

/-- `transferByte(b)` completed: the chip has the byte, the byte returned is discarded (42_sequencer.md R131, R136). -/
def doTransferByte (b : Byte) (s : State) : State := { emitEvent (.byte b) s with rxBytes := s.rxBytes ++ [b] }

/-- `endFrame()` completed: the framing signal is deasserted (42_sequencer.md R131). -/
def doEndFrame (s : State) : State := { emitEvent .frameEnd s with frame := false, rxBytes := [] }

/-- The sequencer moved to another phase of the same frame (42_sequencer.md R143). -/
def setPhase (ph : Phase) (s : State) : State := { s with seq := { s.seq with ph := ph } }

/-- The word being framed, `list[idx]` (42_sequencer.md R133). -/
def currentWord (s : State) : Option Word16 := s.seq.words[s.seq.idx]?

/-- The end of the phase `END`: `idx <- idx + 1`, then the next frame or `finish` (42_sequencer.md R133). -/
def advance (s : State) : State :=
  if s.seq.idx + 1 < s.seq.words.length then
    { s with seq := { s.seq with idx := s.seq.idx + 1, ph := .frameBegin } }
  else finish s

/-- The receiver's registers of channel `c`. -/
def Dev.chan (d : Dev) : Chan → DevChan
  | .ch0 => d.ch0
  | .ch1 => d.ch1

/-- The receiver's registers of channel `c` replaced. -/
def Dev.setChan (d : Dev) (c : Chan) (r : DevChan) : Dev :=
  match c with
  | .ch0 => { d with ch0 := r }
  | .ch1 => { d with ch1 := r }

/-- `D.FAULT <- true` (20_memory.md R57). -/
def raiseFault (d : Dev) : Dev := { d with fault := true }

/-- A control word arrives (20_memory.md R57, first branch). -/
def receiveControl (w : Word16) (d : Dev) : Dev :=
  { d with ctrl := some w, fault := d.fault || d.load.isSome }

/-- `D.CTRL` has a value and its bit `B28` is set (20_memory.md R57). -/
def b28Asserted (p : Params) (d : Dev) : Bool :=
  match d.ctrl with
  | some cw => cw.getLsbD p.bit.b28
  | none => false

/-- A frequency word for channel `c` arrives (20_memory.md R57, second branch). -/
def receiveFreq (p : Params) (c : Chan) (h : Half) (d : Dev) : Dev :=
  if b28Asserted p d then
    match d.load with
    | none => { d.setChan c { d.chan c with freqLo := some h } with load := some c }
    | some c' =>
      if c' = c then { d.setChan c { d.chan c with freqHi := some h } with load := none }
      else raiseFault d
  else raiseFault d

/-- A phase word for channel `c` arrives (20_memory.md R57, last branch). -/
def receivePhase (c : Chan) (q : PhaseWord) (d : Dev) : Dev :=
  { d.setChan c { d.chan c with phase := some q } with fault := d.fault || d.load.isSome }

/-- The reference receiver on any 16-bit word (20_memory.md R57). -/
def receive (p : Params) (w : Word16) (d : Dev) : Dev :=
  if topCode w = topCode p.sel.ctrl then receiveControl w d
  else if topCode w = topCode p.sel.freq0 then receiveFreq p .ch0 (w.extractLsb' 0 14) d
  else if topCode w = topCode p.sel.freq1 then receiveFreq p .ch1 (w.extractLsb' 0 14) d
  else receivePhase (if w &&& ~~~0x1FFF#16 = p.sel.phase1 then .ch1 else .ch0) (w.extractLsb' 0 12) d

/-- The reference receiver on a list of words, in order (20_memory.md R57). -/
def receiveAll (p : Params) : List Word16 → Dev → Dev
  | [], d => d
  | w :: ws, d => receiveAll p ws (receive p w d)

end Sys2Proof.Machine
end

