-- ==== Sys2Proof/Machine/Receiver.lean ====
section
/-! DEFINITION. The five emitted word formats as the chip performs them: the transition of the reference receiver (20_memory.md R57; 30_encoding.md R70 to R72; log 8). -/

namespace Sys2Proof.Machine

/-- The word of a completed frame is a control word, format `W16.CTRL` (30_encoding.md R70; 20_memory.md R57). -/
def execW16Ctrl (f : CtrlFields) (s : State) : Result :=
  .next { s with dev := receiveControl (ctrlWord s.params f) s.dev }

/-- The word of a completed frame is a half for FREQ0, format `W16.FREQ0` (30_encoding.md R71; 20_memory.md R57). -/
def execW16Freq0 (h : Half) (s : State) : Result :=
  .next { s with dev := receiveFreq s.params .ch0 h s.dev }

/-- The word of a completed frame is a half for FREQ1, format `W16.FREQ1` (30_encoding.md R71; 20_memory.md R57). -/
def execW16Freq1 (h : Half) (s : State) : Result :=
  .next { s with dev := receiveFreq s.params .ch1 h s.dev }

/-- The word of a completed frame is for PHASE0, format `W16.PHASE0` (30_encoding.md R72; 20_memory.md R57). -/
def execW16Phase0 (q : PhaseWord) (s : State) : Result :=
  .next { s with dev := receivePhase .ch0 q s.dev }

/-- The word of a completed frame is for PHASE1, format `W16.PHASE1` (30_encoding.md R72; 20_memory.md R57). -/
def execW16Phase1 (q : PhaseWord) (s : State) : Result :=
  .next { s with dev := receivePhase .ch1 q s.dev }

end Sys2Proof.Machine
end

