-- ==== Sys2Proof/Machine/RegisterModel.lean ====
section
/-! DEFINITION. The accessor commands GETFREQ, GETPHASE, GETMODE, GETFSEL, GETPSEL (40_register_model.md R100 to R105). -/

namespace Sys2Proof.Machine

/-- `GETFREQ c` (40_register_model.md R100): the operand last stored, bit for bit. -/
def execGetfreq (c : BitVec 4) (s : State) : Result :=
  withChan c s fun ch => .next (answer (s.arch.chan ch).freqUser s)

/-- `GETPHASE c` (40_register_model.md R101). -/
def execGetphase (c : BitVec 4) (s : State) : Result :=
  withChan c s fun ch => .next (answer (phaseValue (s.arch.chan ch).phaseUser) s)

/-- `GETMODE` (40_register_model.md R102): it reads the cache, not `CW`. -/
def execGetmode (s : State) : Result :=
  needInit s (.next (answer (modeValue s.arch.modeCache) s))

/-- `GETFSEL` (40_register_model.md R103). -/
def execGetfsel (s : State) : Result :=
  needInit s (.next (answer (chanValue s.arch.fselActive) s))

/-- `GETPSEL` (40_register_model.md R104). -/
def execGetpsel (s : State) : Result :=
  needInit s (.next (answer (chanValue s.arch.pselActive) s))

end Sys2Proof.Machine
end

