-- ==== Sys2Proof/Machine/WriteCommands.lean ====
section
/-! DEFINITION. The write commands INIT, SETFREQ, SETPHASE, SETMODE, SETFSEL, SETPSEL, RESET (41_write_commands.md R110 to R117): for each its effect at the command level (words and committed state) and its meaning, the start of the sequencer with that effect. -/

namespace Sys2Proof.Machine

/-- A channel that holds the default frequency and phase (41_write_commands.md R111). -/
def defaultChannel (p : Params) : Channel :=
  ⟨p.defaultFreq, p.defaultPhase, qf p p.defaultFreq, qp p p.defaultPhase⟩

/-- The control words that `INIT` composes, in the order of 41_write_commands.md R111: defaults with `B28`, reset
held, reset released, Sine, frequency channel 0, phase channel 0. -/
def initCw (p : Params) : Word16 := bitAt p.bit.b28

def initCwHeld (p : Params) : Word16 := applyReset p (initCw p) true

def initCwReleased (p : Params) : Word16 := applyReset p (initCwHeld p) false

def initCwSine (p : Params) : Word16 := applyMode p (initCwReleased p) .sine

def initCwFsel (p : Params) : Word16 := applySel p (initCwSine p) .freq .ch0

def initCwPsel (p : Params) : Word16 := applySel p (initCwFsel p) .phase .ch0

/-- `INIT` (41_write_commands.md R111): fourteen words, every element of the state rebuilt. -/
def initEffect (p : Params) : Effect where
  words :=
    let t := qf p p.defaultFreq
    let q := qp p p.defaultPhase
    [ initCw p, initCwHeld p,
      initCwHeld p, floWord p .ch0 t, fhiWord p .ch0 t,
      initCwHeld p, floWord p .ch1 t, fhiWord p .ch1 t,
      phWord p .ch0 q, phWord p .ch1 q,
      initCwReleased p, initCwSine p, initCwFsel p, initCwPsel p ]
  arch :=
    { cw := initCwPsel p
      ch0 := defaultChannel p
      ch1 := defaultChannel p
      fselActive := .ch0
      pselActive := .ch0
      modeCache := .sine
      initDone := true }

/-- `SETFREQ c, V` (41_write_commands.md R112): `CW` as it stands, low half, high half. -/
def setfreqEffect (p : Params) (c : Chan) (v : FreqOperand) (a : Arch) : Effect where
  words := [a.cw, floWord p c (qf p v), fhiWord p c (qf p v)]
  arch := a.setChan c ((a.chan c).setFreq p v)

/-- `SETPHASE c, P` (41_write_commands.md R113): the phase word alone. -/
def setphaseEffect (p : Params) (c : Chan) (ph : PhaseOperand) (a : Arch) : Effect where
  words := [phWord p c (qp p ph)]
  arch := a.setChan c ((a.chan c).setPhase p ph)

/-- `SETMODE m` (41_write_commands.md R114). -/
def setmodeEffect (p : Params) (m : Mode) (a : Arch) : Effect where
  words := [applyMode p a.cw m]
  arch := { a with cw := applyMode p a.cw m, modeCache := m }

/-- `SETFSEL c` (41_write_commands.md R115). -/
def setfselEffect (p : Params) (c : Chan) (a : Arch) : Effect where
  words := [applySel p a.cw .freq c]
  arch := { a with cw := applySel p a.cw .freq c, fselActive := c }

/-- `SETPSEL c` (41_write_commands.md R116). -/
def setpselEffect (p : Params) (c : Chan) (a : Arch) : Effect where
  words := [applySel p a.cw .phase c]
  arch := { a with cw := applySel p a.cw .phase c, pselActive := c }

/-- `RESET h` (41_write_commands.md R117): hold, release of a held reset, or pulse. -/
def resetEffect (p : Params) (hold : Bool) (a : Arch) : Effect :=
  if hold then ⟨[applyReset p a.cw true], { a with cw := applyReset p a.cw true }⟩
  else if resetHeld p a.cw then ⟨[applyReset p a.cw false], { a with cw := applyReset p a.cw false }⟩
  else ⟨[applyReset p a.cw true, applyReset p a.cw false], { a with cw := applyReset p a.cw false }⟩

/-- `INIT` (41_write_commands.md R111), accepted in every lifecycle state; it alone calls `configure()`. -/
def execInit (s : State) : Result := .next (startWrite true (initEffect s.params) s)

/-- `SETFREQ c, V` (41_write_commands.md R112). -/
def execSetfreq (c : BitVec 4) (v : FreqOperand) (s : State) : Result :=
  withChan c s fun ch => .next (startWrite false (setfreqEffect s.params ch v s.arch) s)

/-- `SETPHASE c, P` (41_write_commands.md R113). -/
def execSetphase (c : BitVec 4) (ph : PhaseOperand) (s : State) : Result :=
  withChan c s fun ch => .next (startWrite false (setphaseEffect s.params ch ph s.arch) s)

/-- `SETMODE m` (41_write_commands.md R114, R122). -/
def execSetmode (m : BitVec 4) (s : State) : Result :=
  withMode m s fun md => .next (startWrite false (setmodeEffect s.params md s.arch) s)

/-- `SETFSEL c` (41_write_commands.md R115). -/
def execSetfsel (c : BitVec 4) (s : State) : Result :=
  withChan c s fun ch => .next (startWrite false (setfselEffect s.params ch s.arch) s)

/-- `SETPSEL c` (41_write_commands.md R116). -/
def execSetpsel (c : BitVec 4) (s : State) : Result :=
  withChan c s fun ch => .next (startWrite false (setpselEffect s.params ch s.arch) s)

/-- `RESET h` (41_write_commands.md R117). -/
def execReset (hold : Bool) (s : State) : Result :=
  needInit s (.next (startWrite false (resetEffect s.params hold s.arch) s))

end Sys2Proof.Machine
end

