-- ==== Sys2Proof/Machine/Dispatch.lean ====
section
/-! DEFINITION. One arm for each instruction: the direct call of its meaning. -/

namespace Sys2Proof.Machine

def exec (i : Instr) (s : State) : Host.Outcome State Fault Refusal :=
  match i with
  | .init => Sys2Proof.Machine.execInit s
  | .setfreq c v => Sys2Proof.Machine.execSetfreq c v s
  | .getfreq c => Sys2Proof.Machine.execGetfreq c s
  | .setphase c ph => Sys2Proof.Machine.execSetphase c ph s
  | .getphase c => Sys2Proof.Machine.execGetphase c s
  | .setmode m => Sys2Proof.Machine.execSetmode m s
  | .getmode => Sys2Proof.Machine.execGetmode s
  | .setfsel c => Sys2Proof.Machine.execSetfsel c s
  | .getfsel => Sys2Proof.Machine.execGetfsel s
  | .setpsel c => Sys2Proof.Machine.execSetpsel c s
  | .getpsel => Sys2Proof.Machine.execGetpsel s
  | .reset hold => Sys2Proof.Machine.execReset hold s
  | .w16Ctrl f => Sys2Proof.Machine.execW16Ctrl f s
  | .w16Freq0 h => Sys2Proof.Machine.execW16Freq0 h s
  | .w16Freq1 h => Sys2Proof.Machine.execW16Freq1 h s
  | .w16Phase0 q => Sys2Proof.Machine.execW16Phase0 q s
  | .w16Phase1 q => Sys2Proof.Machine.execW16Phase1 q s

end Sys2Proof.Machine
end

