-- ==== Sys2Proof/Machine/Sequencer.lean ====
section
/-! DEFINITION. Acceptance of a command (30_encoding.md R60; 60_exceptions.md R150) and the sequencer's micro-steps (42_sequencer.md R133, R143). -/

namespace Sys2Proof.Machine

/-- Acceptance of a command word: a word that decodes to no command is rejected with ERR_INVALID, another is
performed (60_exceptions.md R150 check 1, R152 (a) to (e)). -/
def accept (w : CmdWord) (s : State) : Result :=
  match decode s.params (.cmd40 w) with
  | .ok i => exec i s
  | .invalid _ => .next (reject .errInvalid s)

/-- `BUSY = 0`: the command on the port is accepted; with none on the port the block waits (42_sequencer.md R134,
R143 row `IDLE`). -/
def acceptNext (s : State) : Result :=
  match s.caller with
  | [] => .next s
  | w :: rest => accept w { s with caller := rest }

/-- The chip takes the bytes of a frame that has ended: a word of an emitted format is performed, any other word goes
to the reference receiver as it is, a frame of another length than two bytes raises its fault (20_memory.md R57;
log 8, log 10). -/
def deliver (bytes : List Byte) (s : State) : Result :=
  match bytes with
  | [hi, lo] =>
    match decode s.params (.w16 (wordOfBytes hi lo)) with
    | .ok i => exec i s
    | .invalid _ => .next { s with dev := receive s.params (wordOfBytes hi lo) s.dev }
  | _ => .next { s with dev := raiseFault s.dev }

/-- The phase `END`: `endFrame()`, the chip takes the word, then the next frame or `finish` (42_sequencer.md R133). -/
def stepFrameEnd (s : State) : Result :=
  match deliver s.rxBytes (doEndFrame s) with
  | .next t => .next (advance t)
  | .fault r => .fault r
  | .refused r => .refused r

/-- The outstanding call has completed: its effect and the next phase (42_sequencer.md R133, R143). -/
def completeCall (s : State) : Result :=
  match s.seq.ph with
  | .idle => .fault .seqPosition
  | .cfg => .next (setPhase .frameBegin (doConfigure s))
  | .frameBegin => .next (setPhase .hi (doBeginFrame s))
  | .hi =>
    match currentWord s with
    | some w => .next (setPhase .lo (doTransferByte (highByte w) s))
    | none => .fault .seqPosition
  | .lo =>
    match currentWord s with
    | some w => .next (setPhase .frameEnd (doTransferByte (lowByte w) s))
    | none => .fault .seqPosition
  | .frameEnd => stepFrameEnd s

/-- `BUSY = 1`: the transport serves the outstanding call; until it completes nothing happens, and a call that never
completes leaves the block where it is for ever (42_sequencer.md R135, R138; log 5). The byte returned is dropped
(42_sequencer.md R136). -/
def serve (s : State) : Result :=
  match s.script with
  | [] => completeCall s
  | .never :: _ => .next s
  | .completes 0 _ :: rest => completeCall { s with script := rest }
  | .completes (n + 1) b :: rest => .next { s with script := .completes n b :: rest }

/-- A response stands on the port for one step (30_encoding.md R61; log 7). -/
def clearRsp (s : State) : State := { s with rsp := none }

/-- One micro-step: a running command goes on, otherwise the next command is accepted (42_sequencer.md R133, R134). -/
def microStep (s : State) : Result :=
  if s.busy then serve (clearRsp s) else acceptNext (clearRsp s)

/-- The command word `w` presented to an idle block as the next command. -/
def presentCommand (w : CmdWord) (s : State) : State :=
  { s with caller := w :: s.caller, busy := false, seq := Seq.atRest, pending := none }

/-- The emitted word `w` at the end of its frame: the chip's input holds its two bytes and the call outstanding is
the `endFrame()` that hands it over. -/
def presentEmitted (w : Word16) (s : State) : State :=
  { s with
    busy := true
    seq := ⟨[w], 0, .frameEnd⟩
    pending := none
    frame := true
    script := []
    rxBytes := [highByte w, lowByte w] }

end Sys2Proof.Machine
end

