-- ==== Sys2Proof/Machine/Step.lean ====
section
/-! DEFINITION. The step of the machine, and the placing of an instruction where the next step fetches it. -/

namespace Sys2Proof.Machine

/-- One step: one acceptance, one wait, or one completed transport call (00_scope.md R9; 42_sequencer.md R133). -/
def step (s : State) : Host.Outcome State Fault Refusal := microStep s

/-- The state with an instruction where the next step fetches it: a command word on the command port of an idle
block, an emitted word in the chip's input at the end of its frame (log 4, log 22). -/
def State.withFetchWord (s : State) (nbits w : Nat) : State :=
  if nbits ≤ 16 then presentEmitted (BitVec.ofNat 16 w) s else presentCommand (BitVec.ofNat 40 w) s

end Sys2Proof.Machine
end

