-- ==== Sys2Proof/Machine/Assembler.lean ====
section
/-! DEFINITION. The assembler syntax and the pseudo-commands (30_encoding.md R76, R77): from one line of text to one instruction. The machine does not depend on it (log 20). -/

namespace Sys2Proof.Machine

/-- A numeric operand: a decimal literal `mant / 10^places`, or `#n` for the raw operand (30_encoding.md R76). -/
inductive AsmNum where
  | decimal (mant places : Nat)
  | raw (n : Nat)
deriving DecidableEq, Repr

/-- A line of the assembler (30_encoding.md R76, R77). -/
inductive Asm where
  | init
  | setfreq (ch : Nat) (hz : AsmNum)
  | getfreq (ch : Nat)
  | setphase (ch : Nat) (x : AsmNum)
  | getphase (ch : Nat)
  | setmode (m : Nat)
  | getmode
  | setfsel (ch : Nat)
  | getfsel
  | setpsel (ch : Nat)
  | getpsel
  | reset (h : Nat)
  | park
  | unpark
deriving DecidableEq, Repr

/-- A literal in units of `2^-frac`, exact or an error: "A decimal literal that is not exactly representable in the
operand format is an assembler error, never rounded" (30_encoding.md R76). -/
def AsmNum.operand (frac width : Nat) : AsmNum → Option (BitVec width)
  | .raw n => if n < 2 ^ width then some (BitVec.ofNat width n) else none
  | .decimal mant places =>
    if mant * 2 ^ frac % 10 ^ places = 0 ∧ mant * 2 ^ frac / 10 ^ places < 2 ^ width then
      some (BitVec.ofNat width (mant * 2 ^ frac / 10 ^ places))
    else none

/-- A channel or mode number, 0 to 15 (30_encoding.md R76). -/
def asmArg (n : Nat) : Option (BitVec 4) := if n < 16 then some (BitVec.ofNat 4 n) else none

/-- A line assembles to exactly one command, or is an error (30_encoding.md R76, R77). -/
def assemble : Asm → Option Instr
  | .init => some .init
  | .setfreq ch hz => (asmArg ch).bind fun c => (hz.operand hzFracBits 32).map (Instr.setfreq c)
  | .getfreq ch => (asmArg ch).map .getfreq
  | .setphase ch x => (asmArg ch).bind fun c => (x.operand phFracBits 16).map (Instr.setphase c)
  | .getphase ch => (asmArg ch).map .getphase
  | .setmode m => (asmArg m).map .setmode
  | .getmode => some .getmode
  | .setfsel ch => (asmArg ch).map .setfsel
  | .getfsel => some .getfsel
  | .setpsel ch => (asmArg ch).map .setpsel
  | .getpsel => some .getpsel
  | .reset h => if h < 2 then some (.reset (h == 1)) else none
  | .park => some (.reset true)
  | .unpark => some (.reset false)

/-- A decimal digit. -/
def asmDigit (ch : Char) : Option Nat :=
  if 48 ≤ ch.toNat ∧ ch.toNat ≤ 57 then some (ch.toNat - 48) else none

/-- The digits of a literal, accumulated from the left. -/
def asmDigits : Nat → List Char → Option Nat
  | n, [] => some n
  | n, ch :: rest => (asmDigit ch).bind fun d => asmDigits (10 * n + d) rest

/-- A decimal natural number. -/
def asmNat : List Char → Option Nat
  | [] => none
  | cs => asmDigits 0 cs

/-- `#n`, or digits with an optional point and fraction (30_encoding.md R76). -/
def asmNum (cs : List Char) : Option AsmNum :=
  match cs with
  | '#' :: rest => (asmNat rest).map .raw
  | _ =>
    let whole := cs.takeWhile (· != '.')
    match cs.dropWhile (· != '.') with
    | [] => (asmNat whole).map (AsmNum.decimal · 0)
    | _ :: frac =>
      if frac.isEmpty then none
      else (asmNat whole).bind fun w => (asmDigits w frac).map (AsmNum.decimal · frac.length)

/-- A mode operand: a name or a number (30_encoding.md R76). -/
def asmMode (cs : List Char) : Option Nat :=
  if cs = ['O', 'F', 'F'] then some 0
  else if cs = ['S', 'I', 'N', 'E'] then some 1
  else if cs = ['S', 'Q', 'U', 'A', 'R', 'E', '1'] then some 2
  else if cs = ['S', 'Q', 'U', 'A', 'R', 'E', '2'] then some 3
  else if cs = ['T', 'R', 'I', 'A', 'N', 'G', 'L', 'E'] then some 4
  else asmNat cs

/-- A hold operand: `HOLD`, `RELEASE` or a number (30_encoding.md R76). -/
def asmHold (cs : List Char) : Option Nat :=
  if cs = ['H', 'O', 'L', 'D'] then some 1
  else if cs = ['R', 'E', 'L', 'E', 'A', 'S', 'E'] then some 0
  else asmNat cs

/-- White space between the parts of a line. -/
def asmBlank (ch : Char) : Bool := ch == ' ' || ch == '\t'

/-- A part without the white space around it. -/
def asmTrim (cs : List Char) : List Char := ((cs.dropWhile asmBlank).reverse.dropWhile asmBlank).reverse

/-- The operands of a line, separated by commas (30_encoding.md R76). -/
def asmSplit : List Char → List Char → List (List Char)
  | acc, [] => [asmTrim acc]
  | acc, ch :: rest => if ch == ',' then asmTrim acc :: asmSplit [] rest else asmSplit (acc ++ [ch]) rest

/-- The operands of a line; a line of a mnemonic alone has none. -/
def asmOperands (cs : List Char) : List (List Char) := if asmTrim cs = [] then [] else asmSplit [] cs

/-- A line's mnemonic and operands (30_encoding.md R76, R77). -/
def asmCommand (mn : List Char) (ops : List (List Char)) : Option Asm :=
  match mn, ops with
  | ['I', 'N', 'I', 'T'], [] => some .init
  | ['S', 'E', 'T', 'F', 'R', 'E', 'Q'], [c, x] => (asmNat c).bind fun n => (asmNum x).map (Asm.setfreq n)
  | ['G', 'E', 'T', 'F', 'R', 'E', 'Q'], [c] => (asmNat c).map .getfreq
  | ['S', 'E', 'T', 'P', 'H', 'A', 'S', 'E'], [c, x] => (asmNat c).bind fun n => (asmNum x).map (Asm.setphase n)
  | ['G', 'E', 'T', 'P', 'H', 'A', 'S', 'E'], [c] => (asmNat c).map .getphase
  | ['S', 'E', 'T', 'M', 'O', 'D', 'E'], [m] => (asmMode m).map .setmode
  | ['G', 'E', 'T', 'M', 'O', 'D', 'E'], [] => some .getmode
  | ['S', 'E', 'T', 'F', 'S', 'E', 'L'], [c] => (asmNat c).map .setfsel
  | ['G', 'E', 'T', 'F', 'S', 'E', 'L'], [] => some .getfsel
  | ['S', 'E', 'T', 'P', 'S', 'E', 'L'], [c] => (asmNat c).map .setpsel
  | ['G', 'E', 'T', 'P', 'S', 'E', 'L'], [] => some .getpsel
  | ['R', 'E', 'S', 'E', 'T'], [h] => (asmHold h).map .reset
  | ['P', 'A', 'R', 'K'], [] => some .park
  | ['U', 'N', 'P', 'A', 'R', 'K'], [] => some .unpark
  | _, _ => none

/-- What a line of text is. -/
inductive AsmLine where
  /-- Nothing but white space and a comment. -/
  | blank
  /-- One command. -/
  | command (a : Asm)
  /-- No line of 30_encoding.md R76. -/
  | error
deriving DecidableEq, Repr

/-- A line of text: `;` to the end of the line is a comment (30_encoding.md R76). -/
def parseLine (line : List Char) : AsmLine :=
  let body := asmTrim (line.takeWhile (· != ';'))
  if body = [] then .blank
  else
    match asmCommand (body.takeWhile (fun ch => !asmBlank ch)) (asmOperands (body.dropWhile (fun ch => !asmBlank ch))) with
    | some a => .command a
    | none => .error

/-- The words of an assembled program, in order; none if a line is an error (30_encoding.md R76). -/
def assembleProgram (p : Params) : List (List Char) → Option (List FetchWord)
  | [] => some []
  | line :: rest =>
    match parseLine line with
    | .blank => assembleProgram p rest
    | .error => none
    | .command a => (assemble a).bind fun i => (assembleProgram p rest).map (encode p i :: ·)

end Sys2Proof.Machine
end

