-- ==== Sys2Proof/Machine/CommandLevel.lean ====
section
/-! DEFINITION. The command level (00_scope.md R9): one command as one transition from the command word and the architectural state to a word list, a response and the next architectural state. Validation is written here from the fields of the word (60_exceptions.md R150), apart from the decoder. -/

namespace Sys2Proof.Machine

/-- What one command does at the command level (00_scope.md R9). -/
structure CommandResult where
  /-- `configure()` is called first (42_sequencer.md R132). -/
  configures : Bool
  words : List Word16
  rsp : Response
  arch : Arch
deriving DecidableEq, Repr

/-- A must-be-zero bit of 30_encoding.md R69 is set, for the operation codes 0x0 to 0xB. -/
def mustBeZeroBroken (w : CmdWord) : Bool :=
  let op := (cmdOp w).toNat
  let arg := cmdArg w
  let val := cmdVal w
  (op != 1 && op != 3 && val != 0#32)
    || (op == 3 && val.extractLsb' 16 16 != 0#16)
    || ((op == 0 || op == 6 || op == 8 || op == 10) && arg != 0#4)
    || (op == 11 && arg.extractLsb' 1 3 != 0#3)

/-- `ARG` is out of the range that the operation has for it (60_exceptions.md R150 check 2). -/
def operandOutOfRange (w : CmdWord) : Bool :=
  let op := (cmdOp w).toNat
  let arg := (cmdArg w).toNat
  ((op == 1 || op == 2 || op == 3 || op == 4 || op == 7 || op == 9) && decide (1 < arg))
    || (op == 5 && decide (4 < arg))

/-- `validate(CMD)`: the status of the first check that fails, or none for a valid command (60_exceptions.md R150). -/
def validate (initDone : Bool) (w : CmdWord) : Option Status :=
  if 12 ≤ (cmdOp w).toNat then some .errInvalid
  else if mustBeZeroBroken w then some .errInvalid
  else if operandOutOfRange w then some .errInvalid
  else if (cmdOp w).toNat ≠ 0 ∧ initDone = false then some .errNotInit
  else none

/-- The channel of a validated channel operand. -/
def validChan (arg : BitVec 4) : Chan := if arg = 0#4 then .ch0 else .ch1

/-- The mode of a validated mode operand (30_encoding.md R66). -/
def validMode (arg : BitVec 4) : Mode :=
  match arg.toNat with
  | 0 => .off
  | 1 => .sine
  | 2 => .square1
  | 3 => .square2
  | _ => .triangle

/-- A write command at the command level. -/
def writes (cfg : Bool) (e : Effect) : CommandResult := ⟨cfg, e.words, ⟨.ok, 0#32⟩, e.arch⟩

/-- An accessor at the command level (40_register_model.md R105). -/
def returns (v : BitVec 32) (a : Arch) : CommandResult := ⟨false, [], ⟨.ok, v⟩, a⟩

/-- One command as one atomic transition (00_scope.md R9; 41_write_commands.md R110; 40_register_model.md R105). -/
def perform (p : Params) (a : Arch) (w : CmdWord) : CommandResult :=
  match validate a.initDone w with
  | some st => ⟨false, [], ⟨st, 0#32⟩, a⟩
  | none =>
    let arg := cmdArg w
    let val := cmdVal w
    match (cmdOp w).toNat with
    | 0x0 => writes true (initEffect p)
    | 0x1 => writes false (setfreqEffect p (validChan arg) val a)
    | 0x2 => returns (a.chan (validChan arg)).freqUser a
    | 0x3 => writes false (setphaseEffect p (validChan arg) (val.extractLsb' 0 16) a)
    | 0x4 => returns (phaseValue (a.chan (validChan arg)).phaseUser) a
    | 0x5 => writes false (setmodeEffect p (validMode arg) a)
    | 0x6 => returns (modeValue a.modeCache) a
    | 0x7 => writes false (setfselEffect p (validChan arg) a)
    | 0x8 => returns (chanValue a.fselActive) a
    | 0x9 => writes false (setpselEffect p (validChan arg) a)
    | 0xA => returns (chanValue a.pselActive) a
    | _ => writes false (resetEffect p (arg.getLsbD 0) a)

end Sys2Proof.Machine
end

