-- ==== Sys2Proof/Safety.lean ====
section
/-! DEFINITION. The terms that claims use: runs, traces of frames, the lifecycle, the invariants I1 to I9 of 10_state.md R29, and the de-quantizers of 40_register_model.md R92 and R95. -/

namespace Sys2Proof.Machine

/-- `k` steps of the machine. -/
def run (k : Nat) (s : State) : Result := Host.Core.run Sys2Proof.core k s

/-! Traces (42_sequencer.md R131). -/

/-- The four transport calls of a frame (42_sequencer.md R131; 30_encoding.md R73). -/
def frameOf (w : Word16) : List Event :=
  [.frameBegin, .byte (highByte w), .byte (lowByte w), .frameEnd]

/-- The trace of a word list (42_sequencer.md R131). -/
def framesOf : List Word16 → List Event
  | [] => []
  | w :: ws => frameOf w ++ framesOf ws

/-- The trace of a command (42_sequencer.md R140). -/
def commandTrace (cfg : Bool) (ws : List Word16) : List Event :=
  (if cfg then [.configure] else []) ++ framesOf ws

/-- What a trace shows to somebody who listens to the wire: the words of the completed frames, and the bytes of the
open frame if one is open. -/
structure Heard where
  words : List Word16
  openFrame : Option (List Byte)
deriving DecidableEq, Repr

/-- The listener on one event; none when the event breaks a frame (42_sequencer.md R131; 20_memory.md R48). -/
def hear (h : Heard) : Event → Option Heard
  | .configure =>
    match h.openFrame with
    | none => some h
    | some _ => none
  | .frameBegin =>
    match h.openFrame with
    | none => some { h with openFrame := some [] }
    | some _ => none
  | .byte b =>
    match h.openFrame with
    | some bs => if bs.length < 2 then some { h with openFrame := some (bs ++ [b]) } else none
    | none => none
  | .frameEnd =>
    match h.openFrame with
    | some [hi, lo] => some ⟨h.words ++ [wordOfBytes hi lo], none⟩
    | _ => none

/-- The listener on a trace; none when the trace is not well framed. -/
def hearAll : Heard → List Event → Option Heard
  | h, [] => some h
  | h, e :: es => (hear h e).bind fun h' => hearAll h' es

/-- The listener from the start of a trace. -/
def heardOf (es : List Event) : Option Heard := hearAll ⟨[], none⟩ es

/-! The transport's replies (42_sequencer.md R135, R136). -/

/-- A script without the bytes that the transport returns. -/
def eraseMiso : List Reply → List Reply
  | [] => []
  | .completes n _ :: rest => .completes n 0#8 :: eraseMiso rest
  | .never :: rest => .never :: eraseMiso rest

/-- Every call of the script completes (42_sequencer.md R140). -/
def allComplete (sc : List Reply) : Bool := sc.all (· != .never)

/-! Lifecycle (10_state.md R27). -/

/-- The lifecycle states of 10_state.md R27. -/
inductive Lifecycle where
  | uninit
  | active
  | parked
deriving DecidableEq, Repr

/-- The lifecycle state of the block (10_state.md R27). -/
def lifecycle (p : Params) (a : Arch) : Lifecycle :=
  if a.initDone then (if resetHeld p a.cw then .parked else .active) else .uninit

/-! Invariants (10_state.md R29). -/

/-- I2 to I7 of 10_state.md R29 on the architectural state. -/
structure ArchInv (p : Params) (a : Arch) : Prop where
  /-- I2 (10_state.md R13). -/
  freqWord : ∀ c, (a.chan c).freqWord = qf p (a.chan c).freqUser
  /-- I3 (10_state.md R14). -/
  phaseWord : ∀ c, (a.chan c).phaseWord = qp p (a.chan c).phaseUser
  /-- I4, frequency (10_state.md R19). -/
  fselMirror : a.cw.getLsbD p.bit.fselect = a.fselActive.toBool
  /-- I4, phase (10_state.md R19). -/
  pselMirror : a.cw.getLsbD p.bit.pselect = a.pselActive.toBool
  /-- I5. -/
  b28Set : a.cw.getLsbD p.bit.b28 = true
  /-- I6 (10_state.md R21). -/
  modeCoherent : modeBitsOf p a.cw = p.modeTable.bits a.modeCache
  /-- I7: `HLB` is 0 (10_state.md R17). -/
  hlbClear : a.cw.getLsbD p.bit.hlb = false
  /-- I7: every unnamed bit is 0 (10_state.md R17). -/
  unnamedClear : ∀ n, n ∉ p.bit.toList → a.cw.getLsbD n = false

/-- I1 with I2 to I7, for the committed state and for the pending copy. -/
structure RegisterInv (s : State) : Prop where
  paramsWf : s.params.wf = true
  committed : s.arch.initDone = true → ArchInv s.params s.arch
  pendingOk : ∀ a, s.pending = some a → a.initDone = true ∧ ArchInv s.params a

/-- The bytes that the chip's input holds when the sequencer is in the phase `ph` of the frame of `w`. -/
def bytesSent (ph : Phase) (w : Word16) : List Byte :=
  match ph with
  | .lo => [highByte w]
  | .frameEnd => [highByte w, lowByte w]
  | _ => []

/-- A phase inside an open frame. -/
def Phase.inFrame : Phase → Bool
  | .hi | .lo | .frameEnd => true
  | .idle | .cfg | .frameBegin => false

/-- I8 of 10_state.md R29, and the positions of `SEQ` in between (10_state.md R24 to R26; 42_sequencer.md R133). -/
structure SequencerInv (s : State) : Prop where
  /-- At rest (I8). -/
  atRest : s.busy = false → s.seq = Seq.atRest ∧ s.pending = none ∧ (s.arch.initDone = true → s.frame = false)
  /-- A running command holds a pending copy (10_state.md R24). -/
  pendingHeld : s.busy = true → s.pending.isSome = true
  /-- `idx` names a word of the list, which has at most fourteen (10_state.md R25). -/
  position : s.busy = true → s.seq.ph ≠ .idle ∧ s.seq.idx < s.seq.words.length ∧ s.seq.words.length ≤ 14
  /-- `configure()` comes before the first frame (42_sequencer.md R132). -/
  cfgFirst : s.busy = true → s.seq.ph = .cfg → s.seq.idx = 0
  /-- The framing signal is asserted inside a frame (10_state.md R26). -/
  framed : s.busy = true → s.seq.ph.inFrame = true → s.frame = true
  /-- It is deasserted between two frames of a command. -/
  unframed : s.busy = true → s.seq.ph = .frameBegin → 0 < s.seq.idx → s.frame = false
  /-- The chip's input holds the bytes already sent of the word being framed (42_sequencer.md R131). -/
  sent : s.busy = true → s.seq.ph.inFrame = true →
    ∀ w, currentWord s = some w → s.rxBytes = bytesSent s.seq.ph w

/-- The chip's registers hold what the block's shadow registers say, with no load in progress (10_state.md R29 I9). -/
structure Coherent (a : Arch) (d : Dev) : Prop where
  ctrl : d.ctrl = some a.cw
  freqLo : ∀ c, (d.chan c).freqLo = some ((a.chan c).freqWord.extractLsb' 0 14)
  freqHi : ∀ c, (d.chan c).freqHi = some ((a.chan c).freqWord.extractLsb' 14 14)
  phase : ∀ c, (d.chan c).phase = some (a.chan c).phaseWord
  noLoad : d.load = none
  noFault : d.fault = false

/-- The words of the running command that the chip has not taken yet. -/
def unsentWords (s : State) : List Word16 := s.seq.words.drop s.seq.idx

/-- I9 of 10_state.md R29 at every instant: at rest after INIT the chip is coherent with the committed state; while
a command runs, the words still to be taken bring it to coherence with the pending copy. Before the first INIT the
chip has no load in progress and its fault flag is clear. -/
structure ChipInv (s : State) : Prop where
  noFaultNow : s.dev.fault = false
  beforeInit : s.busy = false → s.dev.load = none
  atRest : s.busy = false → s.arch.initDone = true → Coherent s.arch s.dev
  running : s.busy = true → ∀ a, s.pending = some a →
    Coherent a (receiveAll s.params (unsentWords s) s.dev)

/-- The trace is well framed, its open frame is the one that the sequencer is in, and the receiver is the result of
the words in it (42_sequencer.md R131; 20_memory.md R48, R57). -/
structure TraceInv (s : State) : Prop where
  heard : ∃ h, heardOf s.trace = some h ∧
    h.openFrame = (if s.busy && s.seq.ph.inFrame then some s.rxBytes else none) ∧
    s.dev = receiveAll s.params h.words Dev.empty

/-- The four invariants together. -/
structure MachineInv (s : State) : Prop where
  registers : RegisterInv s
  sequencer : SequencerInv s
  chip : ChipInv s
  trace : TraceInv s

/-- The block is idle: `BUSY = 0`, `SEQ = ([], 0, IDLE)`, no pending copy (10_state.md R25, R29 I8). -/
def idle (s : State) : Prop := s.busy = false ∧ s.seq = Seq.atRest ∧ s.pending = none

/-- The state that a command leaves, its calls all completed, according to the command level: its word list framed,
its response given, its state committed (00_scope.md R9). -/
def afterCommand (r : CommandResult) (s : State) : State :=
  { s with
    arch := r.arch
    rsp := some r.rsp
    rspLog := s.rspLog ++ [r.rsp]
    trace := s.trace ++ commandTrace r.configures r.words
    dev := receiveAll s.params r.words s.dev
    frame := if r.words = [] then s.frame else false
    rxBytes := if r.words = [] then s.rxBytes else [] }

/-- The number of micro-steps of a command after its acceptance, `4n + cfg` (42_sequencer.md R133). -/
def callCount (r : CommandResult) : Nat :=
  if r.words = [] then 0 else 4 * r.words.length + (if r.configures then 1 else 0)

/-- A power-up state of a build with parameters `p`, a caller that will present `cmds`, and a transport that will
serve its calls as `script` says. -/
def powerUp (p : Params) (cmds : List CmdWord) (script : List Reply) : State :=
  { State.reset with params := p, caller := cmds, script := script }

/-! De-quantization (40_register_model.md R92, R95): mathematical helpers, no function of the block. -/

/-- `DQF(T) = T * F_MASTER / 2^28` hertz (40_register_model.md R92). -/
def dqf (p : Params) (t : TuningWord) : ℚ := (t.toNat : ℚ) * (p.fMaster : ℚ) / 2 ^ 28

/-- The frequency that an operand stands for, `V / 128` hertz (30_encoding.md R67). -/
def hertzOf (v : FreqOperand) : ℚ := (v.toNat : ℚ) / 128

/-- `DQP(Q) = Q * 450 / 512` PIU with the default scale (40_register_model.md R95). -/
def dqp (p : Params) (q : PhaseWord) : ℚ := (q.toNat : ℚ) * (p.phaseDen : ℚ) / (p.phaseNum : ℚ)

/-- The phase that an operand stands for, `P / 16` PIU (30_encoding.md R68). -/
def piuOf (ph : PhaseOperand) : ℚ := (ph.toNat : ℚ) / 16

end Sys2Proof.Machine
end

