-- ==== Sys2Proof/WellFormed.lean ====
section
/-! DEFINITION. Well-formed instructions: every operand has one of the values that the document defines for it (60_exceptions.md R150 check 2, R152 (f) and (g)). -/

namespace Sys2Proof

/-- "channel value outside {0,1}" is ill formed (60_exceptions.md R152 (f)). -/
def channelInRange (c : BitVec 4) : Bool := decide (c.toNat ≤ 1)

/-- "mode outside the five defined values" is ill formed (60_exceptions.md R152 (g)). -/
def modeInRange (m : BitVec 4) : Bool := decide (m.toNat ≤ 4)

/-- An instruction whose operands are in range. An ill-formed one still has an encoding, decodes, and is rejected
with ERR_INVALID when it is performed (30_encoding.md R74, R79; log 15). -/
def Instr.wellFormed : Instr → Bool
  | .init => true
  | .setfreq c _ => channelInRange c
  | .getfreq c => channelInRange c
  | .setphase c _ => channelInRange c
  | .getphase c => channelInRange c
  | .setmode m => modeInRange m
  | .getmode => true
  | .setfsel c => channelInRange c
  | .getfsel => true
  | .setpsel c => channelInRange c
  | .getpsel => true
  | .reset _ => true
  | .w16Ctrl _ => true
  | .w16Freq0 _ => true
  | .w16Freq1 _ => true
  | .w16Phase0 _ => true
  | .w16Phase1 _ => true

end Sys2Proof
end

