-- ==== Sys2Proof/Certificates/Slice0/Obligations.lean ====
section
/-! DEFINITION. The statements for the provers. Each docstring says which rule of spec/ it formalises, or on which it rests. -/

open Sys2Proof Sys2Proof.Machine

/-! ## Encoding -/

/-- Words written out from the tables of 30_encoding.md R78 and from the vectors of 95_test_vectors.md decode to the
instructions they stand for; the 16-bit words with the default parameters. -/
def Obligations.SampleWordsDecode : Prop :=
  decodeTableWord 40 0x0000000000 = some .init
  ∧ decodeTableWord 40 0x100001F400 = some (.setfreq 0#4 128000#32)
  ∧ decodeTableWord 40 0x2100000000 = some (.getfreq 1#4)
  ∧ decodeTableWord 40 0x3100003840 = some (.setphase 1#4 14400#16)
  ∧ decodeTableWord 40 0x5400000000 = some (.setmode 4#4)
  ∧ decodeTableWord 40 0x9100000000 = some (.setpsel 1#4)
  ∧ decodeTableWord 40 0xB100000000 = some (.reset true)
  ∧ decodeTableWord 40 0xB200000000 = none
  ∧ decodeTableWord 40 0xC000000000 = none
  ∧ decodeTableWord 40 0x3000010000 = none
  ∧ decodeTableWord 16 0x2D28 = some (.w16Ctrl ⟨true, true, true, false, false, true, true, false⟩)
  ∧ decodeTableWord 16 0x69F1 = some (.w16Freq0 0x29F1#14)
  ∧ decodeTableWord 16 0x828F = some (.w16Freq1 0x028F#14)
  ∧ decodeTableWord 16 0xC066 = some (.w16Phase0 0x066#12)
  ∧ decodeTableWord 16 0xE400 = some (.w16Phase1 0x400#12)
  ∧ decodeTableWord 16 0xD000 = none
  ∧ decodeTableWord 16 0x0000 = none

/-- Decoding inverts encoding, for every instruction with every operand, and for every choice of the parameters that
meets the spec's conditions (30_encoding.md R62, R70 to R72, R79; 20_memory.md R41). -/
def Obligations.DecodeInvertsEncode : Prop :=
  ∀ (p : Params) (i : Instr), p.wf = true → decode p (encode p i) = .ok i

/-- A word that decodes to an instruction is the encoding of that instruction: no word has a second reading
(30_encoding.md R79, R81). -/
def Obligations.EncodeInvertsDecode : Prop :=
  ∀ (p : Params) (w : FetchWord) (i : Instr), p.wf = true → decode p w = .ok i → encode p i = w

/-- The decoder is the table: a command word decodes to an instruction of a row exactly when the row's match and mask
cover it, the rows are disjoint, and a word that no row covers is Invalid; the same for the emitted words with the
default parameters (30_encoding.md R78). -/
def Obligations.DecoderIsTheEncodingTable : Prop :=
  (∀ w : CmdWord,
    (∀ r ∈ cmdTable, (∃ i, decodeCmd w = .ok i ∧ i.mnemonic = r.mnemonic) ↔ r.covers w = true)
    ∧ (∀ r ∈ cmdTable, ∀ r' ∈ cmdTable, r.covers w = true → r'.covers w = true → r = r')
    ∧ ((∀ r ∈ cmdTable, r.covers w = false) → ∃ why, decodeCmd w = .invalid why))
  ∧ (∀ w : Word16,
    (∀ r ∈ w16Table, (∃ i, decodeW16 Params.default w = .ok i ∧ i.mnemonic = r.mnemonic) ↔ r.covers w = true)
    ∧ (∀ r ∈ w16Table, ∀ r' ∈ w16Table, r.covers w = true → r'.covers w = true → r = r')
    ∧ ((∀ r ∈ w16Table, r.covers w = false) → ∃ why, decodeW16 Params.default w = .invalid why))

/-! ## Acceptance, validation, rejection -/

/-- A step of an idle block performs the command word on the port, consumed, the response port cleared
(30_encoding.md R60; 42_sequencer.md R134). That an earlier response leaves its port in this step is the model's reading
of R61's "for one step" (log 7). -/
def Obligations.StepRunsTheDecodedCommand : Prop :=
  ∀ (s : State) (w : CmdWord) (rest : List CmdWord) (i : Instr),
    s.busy = false → s.caller = w :: rest → decode s.params (.cmd40 w) = .ok i →
    step s = exec i { s with caller := rest, rsp := none }

/-- A step at the end of a frame, its `endFrame()` completing, performs the word whose two bytes the chip has taken,
and the sequencer advances (42_sequencer.md R133; 20_memory.md R57). That the chip performs the word in this very step is
the model's choice, since R133 and R57 give no moment (log 8); so is it that the chip takes the word from the two bytes
kept in `rxBytes` (log 10), and that an earlier response leaves its port in this step (log 7). -/
def Obligations.StepRunsTheReceivedWord : Prop :=
  ∀ (s : State) (w : Word16) (i : Instr),
    s.busy = true → s.script = [] → s.seq.ph = .frameEnd →
    s.rxBytes = [highByte w, lowByte w] → decode s.params (.w16 w) = .ok i →
    ∃ t, exec i { s with rsp := none, trace := s.trace ++ [.frameEnd], frame := false, rxBytes := [] } = .next t
      ∧ step s = .next (advance t)

/-- With `BUSY = 0` and no command on the port the block waits: nothing changes but that a response leaves its port
(42_sequencer.md R143, row `IDLE`). That the response leaves in this step is the model's reading of 30_encoding.md R61's
"for one step" (log 7). -/
def Obligations.IdleBlockWaits : Prop :=
  ∀ s : State, s.busy = false → s.caller = [] → step s = .next { s with rsp := none }

/-- A word whose validation fails gets the response of the first check that fails, and nothing else changes: no call,
no word, no register, `BUSY` not seen as 1; every other word is performed as a command (60_exceptions.md R150, R151). -/
def Obligations.ValidationDecidesTheResponse : Prop :=
  ∀ (s : State) (w : CmdWord) (rest : List CmdWord), s.busy = false → s.caller = w :: rest →
    (∀ st, validate s.arch.initDone w = some st →
      step s = .next { s with caller := rest, rsp := some ⟨st, 0#32⟩, rspLog := s.rspLog ++ [⟨st, 0#32⟩] })
    ∧ (validate s.arch.initDone w = none →
      ∃ i t, decode s.params (.cmd40 w) = .ok i ∧ i.wellFormed = true ∧ step s = .next t
        ∧ (t.busy = true ∨ ∃ v, t.rsp = some ⟨.ok, v⟩))

/-- A command word with a must-be-zero bit set is rejected with ERR_INVALID in every state of the lifecycle; nothing is
emitted, nothing changes (30_encoding.md R69). -/
def Obligations.MustBeZeroBitsAreRejected : Prop :=
  ∀ (s : State) (w : CmdWord) (rest : List CmdWord), s.busy = false → s.caller = w :: rest →
    (((cmdOp w).toNat ≤ 11 ∧ cmdOp w ≠ 1#4 ∧ cmdOp w ≠ 3#4 ∧ cmdVal w ≠ 0#32)
      ∨ (cmdOp w = 3#4 ∧ (cmdVal w).extractLsb' 16 16 ≠ 0#16)
      ∨ ((cmdOp w = 0#4 ∨ cmdOp w = 6#4 ∨ cmdOp w = 8#4 ∨ cmdOp w = 10#4) ∧ cmdArg w ≠ 0#4)
      ∨ (cmdOp w = 11#4 ∧ (cmdArg w).extractLsb' 1 3 ≠ 0#3)) →
    step s = .next { s with caller := rest, rsp := some ⟨.errInvalid, 0#32⟩,
                            rspLog := s.rspLog ++ [⟨.errInvalid, 0#32⟩] }

/-- A channel operand outside {0, 1} and a mode operand outside the five are rejected with ERR_INVALID, before INIT as
after it; nothing changes (60_exceptions.md R152 (f) and (g), R155). -/
def Obligations.OutOfRangeOperandsAreRejected : Prop :=
  ∀ (s : State) (i : Instr), i.wellFormed = false →
    exec i s = .next { s with rsp := some ⟨.errInvalid, 0#32⟩, rspLog := s.rspLog ++ [⟨.errInvalid, 0#32⟩] }

/-- Before the first INIT has completed, each of the eleven other commands, its operands in range, is rejected with
ERR_NOT_INIT; nothing changes (60_exceptions.md R153). -/
def Obligations.CommandsBeforeInitAreRejected : Prop :=
  ∀ (s : State) (i : Instr), s.arch.initDone = false → i.isCommand = true → i ≠ .init → i.wellFormed = true →
    exec i s = .next { s with rsp := some ⟨.errNotInit, 0#32⟩, rspLog := s.rspLog ++ [⟨.errNotInit, 0#32⟩] }

/-! ## What each instruction does -/

/-- INIT is accepted in every state and starts the sequence of fourteen words after `configure()`, with the state of
10_state.md R31 pending; nothing else changes (41_write_commands.md R111). -/
def Obligations.InitStartsTheStartupSequence : Prop :=
  ∀ s : State,
    let p := s.params
    let cw1 := bitAt p.bit.b28
    let cw2 := applyReset p cw1 true
    let cw3 := applyReset p cw2 false
    let cw4 := applyMode p cw3 .sine
    let cw5 := applySel p cw4 .freq .ch0
    let cw6 := applySel p cw5 .phase .ch0
    let t := qf p p.defaultFreq
    let q := qp p p.defaultPhase
    exec .init s = .next { s with
      busy := true
      seq := ⟨[cw1, cw2, cw2, floWord p .ch0 t, fhiWord p .ch0 t, cw2, floWord p .ch1 t, fhiWord p .ch1 t,
        phWord p .ch0 q, phWord p .ch1 q, cw3, cw4, cw5, cw6], 0, .cfg⟩
      pending := some
        { cw := cw6, ch0 := ⟨p.defaultFreq, p.defaultPhase, t, q⟩, ch1 := ⟨p.defaultFreq, p.defaultPhase, t, q⟩,
          fselActive := .ch0, pselActive := .ch0, modeCache := .sine, initDone := true } }

/-- SETFREQ on channel 0 and on channel 1: `CW` as it stands, low half, high half; the operand bit for bit and its
tuning word pending, all else as it was (41_write_commands.md R112). -/
def Obligations.SetfreqStartsThreeWords : Prop :=
  ∀ (s : State) (v : FreqOperand), s.arch.initDone = true →
    exec (.setfreq 0#4 v) s = .next { s with
      busy := true
      seq := ⟨[s.arch.cw, floWord s.params .ch0 (qf s.params v), fhiWord s.params .ch0 (qf s.params v)], 0, .frameBegin⟩
      pending := some { s.arch with ch0 := { s.arch.ch0 with freqUser := v, freqWord := qf s.params v } } }
    ∧ exec (.setfreq 1#4 v) s = .next { s with
      busy := true
      seq := ⟨[s.arch.cw, floWord s.params .ch1 (qf s.params v), fhiWord s.params .ch1 (qf s.params v)], 0, .frameBegin⟩
      pending := some { s.arch with ch1 := { s.arch.ch1 with freqUser := v, freqWord := qf s.params v } } }

/-- SETPHASE on channel 0 and on channel 1: the one phase word; the operand and its phase word pending, all else as it
was (41_write_commands.md R113). -/
def Obligations.SetphaseStartsOneWord : Prop :=
  ∀ (s : State) (x : PhaseOperand), s.arch.initDone = true →
    exec (.setphase 0#4 x) s = .next { s with
      busy := true
      seq := ⟨[phWord s.params .ch0 (qp s.params x)], 0, .frameBegin⟩
      pending := some { s.arch with ch0 := { s.arch.ch0 with phaseUser := x, phaseWord := qp s.params x } } }
    ∧ exec (.setphase 1#4 x) s = .next { s with
      busy := true
      seq := ⟨[phWord s.params .ch1 (qp s.params x)], 0, .frameBegin⟩
      pending := some { s.arch with ch1 := { s.arch.ch1 with phaseUser := x, phaseWord := qp s.params x } } }

/-- SETMODE with each of the five mode numbers: the one control word with the mode's five bits; `CW` and `MODE_CACHE`
pending, all else as it was (41_write_commands.md R114; 30_encoding.md R66). -/
def Obligations.SetmodeStartsOneWord : Prop :=
  ∀ (s : State) (m : Mode), s.arch.initDone = true →
    exec (.setmode (BitVec.ofNat 4 m.toNat)) s = .next { s with
      busy := true
      seq := ⟨[applyMode s.params s.arch.cw m], 0, .frameBegin⟩
      pending := some { s.arch with cw := applyMode s.params s.arch.cw m, modeCache := m } }

/-- SETFSEL and SETPSEL: the one control word with the select bit set to the channel; `CW` and the selection pending,
all else as it was (41_write_commands.md R115, R116). -/
def Obligations.SelectsStartOneWord : Prop :=
  ∀ (s : State) (c : Chan), s.arch.initDone = true →
    exec (.setfsel (BitVec.ofNat 4 c.toNat)) s = .next { s with
      busy := true
      seq := ⟨[setBit s.arch.cw s.params.bit.fselect c.toBool], 0, .frameBegin⟩
      pending := some { s.arch with cw := setBit s.arch.cw s.params.bit.fselect c.toBool, fselActive := c } }
    ∧ exec (.setpsel (BitVec.ofNat 4 c.toNat)) s = .next { s with
      busy := true
      seq := ⟨[setBit s.arch.cw s.params.bit.pselect c.toBool], 0, .frameBegin⟩
      pending := some { s.arch with cw := setBit s.arch.cw s.params.bit.pselect c.toBool, pselActive := c } }

/-- The three branches of RESET: hold (one word), release of a held reset (one word), pulse (two words); only the bit
`RESET` of `CW` is pending, all else as it was (41_write_commands.md R117). -/
def Obligations.ResetHoldsReleasesOrPulses : Prop :=
  ∀ s : State, s.arch.initDone = true →
    let set1 := setBit s.arch.cw s.params.bit.reset true
    let set0 := setBit s.arch.cw s.params.bit.reset false
    exec (.reset true) s = .next { s with
      busy := true, seq := ⟨[set1], 0, .frameBegin⟩, pending := some { s.arch with cw := set1 } }
    ∧ exec (.reset false) s = .next { s with
      busy := true
      seq := ⟨if s.arch.cw.getLsbD s.params.bit.reset then [set0] else [set1, set0], 0, .frameBegin⟩
      pending := some { s.arch with cw := set0 } }

/-- The five accessors answer OK with the stored value, zero-extended, and change nothing else
(40_register_model.md R100 to R105; 30_encoding.md R80). -/
def Obligations.AccessorsAnswerTheStoredValue : Prop :=
  ∀ s : State, s.arch.initDone = true →
    let answered := fun (v : BitVec 32) =>
      ({ s with rsp := some ⟨.ok, v⟩, rspLog := s.rspLog ++ [⟨.ok, v⟩] } : State)
    exec (.getfreq 0#4) s = .next (answered s.arch.ch0.freqUser)
    ∧ exec (.getfreq 1#4) s = .next (answered s.arch.ch1.freqUser)
    ∧ exec (.getphase 0#4) s = .next (answered (s.arch.ch0.phaseUser.setWidth 32))
    ∧ exec (.getphase 1#4) s = .next (answered (s.arch.ch1.phaseUser.setWidth 32))
    ∧ exec .getmode s = .next (answered (BitVec.ofNat 32 s.arch.modeCache.toNat))
    ∧ exec .getfsel s = .next (answered (BitVec.ofNat 32 s.arch.fselActive.toNat))
    ∧ exec .getpsel s = .next (answered (BitVec.ofNat 32 s.arch.pselActive.toNat))

/-- A received control word becomes `D.CTRL`; between two halves it raises `D.FAULT`; nothing else changes
(20_memory.md R57; 30_encoding.md R70). That the table's row means the
receiver's transition is the model's choice (log 8). -/
def Obligations.ControlWordIsReceived : Prop :=
  ∀ (s : State) (f : CtrlFields),
    exec (.w16Ctrl f) s = .next { s with
      dev := { s.dev with ctrl := some (ctrlWord s.params f), fault := s.dev.fault || s.dev.load.isSome } }

/-- A received frequency word, `B28` asserted: with no load in progress it is the low half and the load begins; with a
load of its own channel in progress it is the high half and the load ends; with a load of the other channel, or
without `B28`, it raises `D.FAULT` and no register changes (20_memory.md R57; 30_encoding.md R71). That the
table's rows mean the receiver's transition is the model's choice (log 8). -/
def Obligations.FrequencyHalfIsReceived : Prop :=
  ∀ (s : State) (h : Half),
    exec (.w16Freq0 h) s = .next { s with
      dev := match s.dev.ctrl.map (·.getLsbD s.params.bit.b28), s.dev.load with
        | some true, none => { s.dev with ch0 := { s.dev.ch0 with freqLo := some h }, load := some .ch0 }
        | some true, some .ch0 => { s.dev with ch0 := { s.dev.ch0 with freqHi := some h }, load := none }
        | _, _ => { s.dev with fault := true } }
    ∧ exec (.w16Freq1 h) s = .next { s with
      dev := match s.dev.ctrl.map (·.getLsbD s.params.bit.b28), s.dev.load with
        | some true, none => { s.dev with ch1 := { s.dev.ch1 with freqLo := some h }, load := some .ch1 }
        | some true, some .ch1 => { s.dev with ch1 := { s.dev.ch1 with freqHi := some h }, load := none }
        | _, _ => { s.dev with fault := true } }

/-- A received phase word becomes its channel's `D.PHASE`; between two halves it raises `D.FAULT`; nothing else changes
(20_memory.md R57; 30_encoding.md R72). That the table's row means the
receiver's transition is the model's choice (log 8). -/
def Obligations.PhaseWordIsReceived : Prop :=
  ∀ (s : State) (q : PhaseWord),
    exec (.w16Phase0 q) s = .next { s with
      dev := { s.dev with ch0 := { s.dev.ch0 with phase := some q }, fault := s.dev.fault || s.dev.load.isSome } }
    ∧ exec (.w16Phase1 q) s = .next { s with
      dev := { s.dev with ch1 := { s.dev.ch1 with phase := some q }, fault := s.dev.fault || s.dev.load.isSome } }

/-- The meanings of the five emitted formats are the reference receiver: performing the instruction that a word decodes
to does to the chip what the receiver's pseudocode does with the word, whatever the parameters (20_memory.md R57). That the
table's rows mean the receiver's transition is the model's choice (log 8). -/
def Obligations.EmittedFormatsRefineTheReceiver : Prop :=
  ∀ (s : State) (w : Word16) (i : Instr), s.params.wf = true → decode s.params (.w16 w) = .ok i →
    exec i s = .next { s with dev := receive s.params w s.dev }

/-! ## The sequencer -/

/-- The sequencer sends any list of words: after `4n + cfg` completed calls the trace has gained `Configure` if asked and
one frame for each word, the chip has received the words in order, the pending copy is committed, the response
is given, and the block is at rest (42_sequencer.md R133, R140). The empty `rxBytes` is the model's own field (log 10). -/
def Obligations.WordListIsFramedAndCommitted : Prop :=
  ∀ (s : State) (cfg : Bool) (ws : List Word16) (a : Arch), s.params.wf = true → s.script = [] → ws ≠ [] →
    run (4 * ws.length + (if cfg then 1 else 0)) (startWrite cfg ⟨ws, a⟩ s) = .next { s with
      arch := a
      pending := none
      busy := false
      seq := Seq.atRest
      frame := false
      rsp := some ⟨.ok, 0#32⟩
      rspLog := s.rspLog ++ [⟨.ok, 0#32⟩]
      trace := s.trace ++ (if cfg then [.configure] else []) ++ framesOf ws
      rxBytes := []
      dev := receiveAll s.params ws s.dev }

/-- The two levels agree: an idle block that takes the command word `w`, every call completing at once, is after one
step for the acceptance and `4n + cfg` steps for the calls in exactly the state of the command level: its word list
framed, its response given, its state committed, the chip as the words leave it (00_scope.md R9; 42_sequencer.md R140). -/
def Obligations.MicroStepsAgreeWithCommandLevel : Prop :=
  ∀ (s : State) (w : CmdWord) (rest : List CmdWord), s.params.wf = true → idle s → s.script = [] →
    s.caller = w :: rest →
    run (1 + callCount (perform s.params s.arch w)) s
      = .next (afterCommand (perform s.params s.arch w) { s with caller := rest })

/-- However long each call takes, if every call completes the command ends in the same state; only the replies still to
come differ (42_sequencer.md R135, R140). -/
def Obligations.SlowTransportGivesTheSameResult : Prop :=
  ∀ (s : State) (w : CmdWord) (rest : List CmdWord), s.params.wf = true → idle s → allComplete s.script = true →
    s.caller = w :: rest →
    ∃ (k : Nat) (sc : List Reply), sc <:+ s.script ∧
      run k s = .next (afterCommand (perform s.params s.arch w) { s with caller := rest, script := sc })

/-- A call that never completes: the block stays where it is for ever, `BUSY` 1, `SEQ` and `FRAME` as they are, nothing
committed, no response, no command accepted (42_sequencer.md R138). Beyond R138, the whole next state also says that the
unfinished call leaves no event in the trace, which 95_test_vectors.md T1 (c) leaves open: this is the model's choice
(log 6), as it is that the chip takes the byte or the word of a call only when the call completes (log 8, log 10) and
that an earlier response has left its port (log 7). -/
def Obligations.StuckCallWaitsForEver : Prop :=
  ∀ (s : State) (later : List Reply), s.busy = true → s.script = .never :: later →
    ∀ k, run (k + 1) s = .next { s with rsp := none }

/-- The bytes that the transport returns do not matter: two transports that differ in nothing else give, after any number
of steps, states that differ in nothing but the bytes still to be returned, or the same fault (42_sequencer.md R136). -/
def Obligations.ReturnedBytesDoNotMatter : Prop :=
  ∀ (k : Nat) (s : State) (sc : List Reply), eraseMiso sc = eraseMiso s.script →
    (∀ t, run k s = .next t →
      ∃ sc', eraseMiso sc' = eraseMiso t.script ∧ run k { s with script := sc } = .next { t with script := sc' })
    ∧ (∀ f, run k s = .fault f → run k { s with script := sc } = .fault f)

/-- While a command runs the port is not served and the architectural state stands still: a step either leaves the
command running, with state, pending copy and port as they were and no response, or it is the last `endFrame()`:
the pending copy is committed and the response `(OK, 0)` given in that one step (42_sequencer.md R133, R134,
R139; 10_state.md R24). -/
def Obligations.StateChangesOnlyAtCommit : Prop :=
  ∀ s t : State, s.busy = true → step s = .next t →
    t.caller = s.caller
    ∧ ((t.busy = true ∧ t.arch = s.arch ∧ t.pending = s.pending ∧ t.rsp = none ∧ t.rspLog = s.rspLog)
      ∨ (s.seq.ph = .frameEnd ∧ s.seq.words.length ≤ s.seq.idx + 1
        ∧ t.busy = false ∧ t.seq = Seq.atRest ∧ t.pending = none
        ∧ t.arch = s.pending.getD s.arch
        ∧ t.rsp = some ⟨.ok, 0#32⟩ ∧ t.rspLog = s.rspLog ++ [⟨.ok, 0#32⟩]))

/-- A listener on the wire who has heard a command's trace has heard exactly its words: high byte first, every frame
closed (42_sequencer.md R131; 20_memory.md R44). -/
def Obligations.FramesAreHeardAsTheirWords : Prop :=
  ∀ (cfg : Bool) (ws : List Word16), heardOf (commandTrace cfg ws) = some ⟨ws, none⟩

/-! ## Invariants -/

/-- No step changes a parameter of the build (70_reset_and_hazards.md R174; 00_scope.md R5). -/
def Obligations.ParametersNeverChange : Prop :=
  ∀ s t : State, step s = .next t → t.params = s.params

/-- Every step keeps I8 of 10_state.md R29 and the positions of `SEQ` of 10_state.md R25. The bytes that the chip's input
holds inside a frame are the model's own field (log 10). -/
def Obligations.SequencerInvariantIsKept : Prop :=
  ∀ s t : State, SequencerInv s → step s = .next t → SequencerInv t

/-- Every step keeps I1 to I7 of 10_state.md R29, for the committed state and for the pending copy, whatever the
parameters. -/
def Obligations.RegisterInvariantIsKept : Prop :=
  ∀ s t : State, RegisterInv s → step s = .next t → RegisterInv t

/-- Every step keeps I9 of 10_state.md R29 in its form for every instant: the chip is coherent with the shadow registers
whenever the block is at rest after INIT, and its fault flag is never raised. While a command runs, the moment at which
a word reaches the registers is the model's choice (log 8). -/
def Obligations.ChipCoherenceIsKept : Prop :=
  ∀ s t : State, RegisterInv s → SequencerInv s → ChipInv s → step s = .next t → ChipInv t

/-- Every step keeps the trace well framed, and the chip what the reference receiver makes of the words in it
(42_sequencer.md R131, R137; 20_memory.md R48, R57). That an event enters the trace, and a word the receiver, in the step in
which the call completes is the model's choice (log 6, log 8); the bytes of the open frame are the model's own field
(log 10). -/
def Obligations.TraceInvariantIsKept : Prop :=
  ∀ s t : State, s.params.wf = true → SequencerInv s → TraceInv s → step s = .next t → TraceInv t

/-- The four invariants hold at power-up, for every build whose parameters meet the spec's conditions, every caller and
every transport (10_state.md R30). That the receiver's fault flag is clear then is the model's choice (log 9). -/
def Obligations.InvariantsHoldAtPowerUp : Prop :=
  Params.default.wf = true
  ∧ ∀ (p : Params) (cmds : List CmdWord) (script : List Reply), p.wf = true → MachineInv (powerUp p cmds script)

/-- A step from a state that meets the sequencer's invariant is a next state: no fault, no refusal, whatever the word on
the port (30_encoding.md R74: "every one of the 2^40 words has a defined outcome"). -/
def Obligations.EveryStepHasANextState : Prop :=
  ∀ s : State, SequencerInv s → ∃ t, step s = .next t

/-- From power-up, whatever words the caller presents and however the transport behaves, no run stops, the reference
receiver's fault flag is never raised, and at rest after INIT the chip holds what the shadow registers say
(20_memory.md R57; 10_state.md R29 I9; 70_reset_and_hazards.md R180 to R182). That the flag is clear at the start is the
model's choice (log 9). -/
def Obligations.NoRunFromPowerUpFaultsTheChip : Prop :=
  ∀ (p : Params) (cmds : List CmdWord) (script : List Reply) (k : Nat), p.wf = true →
    ∃ t, run k (powerUp p cmds script) = .next t ∧ t.dev.fault = false
      ∧ (t.busy = false → t.arch.initDone = true → Coherent t.arch t.dev)

/-- Once `INIT_DONE` is 1 no step clears it, so ERR_NOT_INIT cannot occur again (60_exceptions.md R153; 10_state.md
R22). -/
def Obligations.InitDoneIsNeverCleared : Prop :=
  ∀ s t : State, RegisterInv s → s.arch.initDone = true → step s = .next t →
    t.arch.initDone = true ∧ t.rsp ≠ some ⟨.errNotInit, 0#32⟩

/-- Right after power-up: `INIT_DONE` 0, `BUSY` 0, the sequencer at rest, no command accepted, no response pending,
nothing emitted, the default parameters, and a receiver that holds no value (10_state.md R30;
70_reset_and_hazards.md R171; 20_memory.md R57). The empty command port, the transport that completes at once and
the default parameters are the model's choice (log 1, log 4, log 5), and so is it that the receiver's fault flag is
clear, which R57 does not say (log 9). -/
def Obligations.PowerUpStateIsUninitialised : Prop :=
  State.reset.arch.initDone = false ∧ State.reset.busy = false ∧ State.reset.seq = ⟨[], 0, .idle⟩
  ∧ State.reset.pending = none ∧ State.reset.rsp = none ∧ State.reset.rspLog = [] ∧ State.reset.trace = []
  ∧ State.reset.caller = [] ∧ State.reset.script = [] ∧ State.reset.params = Params.default
  ∧ State.reset.dev = ⟨none, ⟨none, none, none⟩, ⟨none, none, none⟩, none, false⟩
  ∧ lifecycle State.reset.params State.reset.arch = .uninit

/-! ## Arithmetic -/

/-- `QF_full` is the formula of 40_register_model.md R90 in its three lines (for every `F_MASTER` when ties round up, and
with the defaults), its numerator is below 2^55, `QF` is its low 28 bits, and the worked example and the corner cases of
R91 come out. -/
def Obligations.FrequencyQuantizerIsTheStatedFormula : Prop :=
  (∀ (p : Params) (v : FreqOperand), 0 < p.fMaster → p.ties = .halfUp →
    (qfFull p v : ℤ) = ⌊((v.toNat : ℚ) / 2 ^ 7) * 2 ^ 28 / (p.fMaster : ℚ) + 1 / 2⌋
    ∧ qfFull p v = (v.toNat * 2 ^ 22 + p.fMaster) / (2 * p.fMaster))
  ∧ (∀ v : FreqOperand, qfFull Params.default v = (v.toNat * 4194304 + 25000000) / 50000000
      ∧ v.toNat * 4194304 + 25000000 < 2 ^ 55)
  ∧ (∀ (p : Params) (v : FreqOperand), (qf p v).toNat = qfFull p v % 2 ^ 28)
  ∧ qf Params.default 128000#32 = 10737#28 ∧ qf Params.default 0#32 = 0#28 ∧ qf Params.default 5#32 = 0#28
  ∧ qf Params.default 6#32 = 1#28 ∧ qf Params.default 1600000000#32 = 134217728#28
  ∧ qf Params.default 4294967295#32 = 91852514#28

/-- `QP_full` is the formula of 40_register_model.md R93 in its two lines (for every `PHASE_SCALE` when ties round up, and
with the default), its numerator is below 2^22, `QP` is its low 12 bits, and the worked example and the corner cases of
R94 come out. -/
def Obligations.PhaseQuantizerIsTheStatedFormula : Prop :=
  (∀ (p : Params) (x : PhaseOperand), 0 < p.phaseDen → p.ties = .halfUp →
    (qpFull p x : ℤ) = ⌊((x.toNat : ℚ) / 2 ^ 4) * ((p.phaseNum : ℚ) / (p.phaseDen : ℚ)) + 1 / 2⌋)
  ∧ (∀ x : PhaseOperand, qpFull Params.default x = (32 * x.toNat + 225) / 450 ∧ 32 * x.toNat + 225 < 2 ^ 22)
  ∧ (∀ (p : Params) (x : PhaseOperand), (qp p x).toNat = qpFull p x % 2 ^ 12)
  ∧ qp Params.default 14400#16 = 1024#12 ∧ qp Params.default 0#16 = 0#12 ∧ qp Params.default 7#16 = 0#12
  ∧ qp Params.default 8#16 = 1#12 ∧ qp Params.default 7200#16 = 512#12 ∧ qp Params.default 28800#16 = 2048#12
  ∧ qp Params.default 57593#16 = 0#12 ∧ qp Params.default 65535#16 = 564#12

/-- `QF_full` fits 28 bits exactly up to V = 3,199,999,994, and `QP_full` fits 12 bits exactly up to P = 57592; above
that the words keep the low bits (40_register_model.md R91 (b), R94 (b)). -/
def Obligations.QuantizerRanges : Prop :=
  (∀ v : FreqOperand, qfFull Params.default v ≤ 2 ^ 28 - 1 ↔ v.toNat ≤ 3199999994)
  ∧ (∀ x : PhaseOperand, qpFull Params.default x ≤ 4095 ↔ x.toNat ≤ 57592)
  ∧ (∀ v : FreqOperand, (qf Params.default v).toNat = qfFull Params.default v % 2 ^ 28)
  ∧ (∀ x : PhaseOperand, (qp Params.default x).toNat = qpFull Params.default x % 2 ^ 12)

/-- With the default parameters no operand gives an exact half, so every `ROUND_TIES` gives the same words
(40_register_model.md R91 (a), R94 (a)). The two other tie rules are the model's choice (log 13). -/
def Obligations.TieRuleIsNotObservable : Prop :=
  ∀ (t : RoundTies) (v : FreqOperand) (x : PhaseOperand),
    qfFull { Params.default with ties := t } v = qfFull Params.default v
    ∧ qpFull { Params.default with ties := t } x = qpFull Params.default x

/-- The properties of `QF` with the default parameters: half an LSB of error in range, which is within the document's one
LSB; monotone; steps of 0 or 1; every tuning word is reached (40_register_model.md R92). -/
def Obligations.FrequencyQuantizerIsAccurate : Prop :=
  (∀ v : FreqOperand, v.toNat ≤ 3199999994 →
    |dqf Params.default (qf Params.default v) - hertzOf v| ≤ (25000000 : ℚ) / 2 ^ 29)
  ∧ (25000000 : ℚ) / 2 ^ 29 ≤ 25000000 / 2 ^ 28
  ∧ (∀ v v' : FreqOperand, v.toNat ≤ v'.toNat → qfFull Params.default v ≤ qfFull Params.default v')
  ∧ (∀ v v' : FreqOperand, v'.toNat = v.toNat + 1 →
      qfFull Params.default v' = qfFull Params.default v ∨ qfFull Params.default v' = qfFull Params.default v + 1)
  ∧ (∀ t : TuningWord, ∃ v : FreqOperand, qf Params.default v = t)

/-- The properties of `QP` with the default parameters: half an LSB of error in range, which is within the document's one
LSB; on the document's range the word is at most 410; monotone; steps of 0 or 1 (40_register_model.md R95). -/
def Obligations.PhaseQuantizerIsAccurate : Prop :=
  (∀ x : PhaseOperand, x.toNat ≤ 57592 →
    |dqp Params.default (qp Params.default x) - piuOf x| ≤ (225 : ℚ) / 512)
  ∧ (225 : ℚ) / 512 ≤ 450 / 512
  ∧ (∀ x : PhaseOperand, x.toNat < 5760 → (qp Params.default x).toNat ≤ 410)
  ∧ (∀ x x' : PhaseOperand, x.toNat ≤ x'.toNat → qpFull Params.default x ≤ qpFull Params.default x')
  ∧ (∀ x x' : PhaseOperand, x'.toNat = x.toNat + 1 →
      qpFull Params.default x' = qpFull Params.default x ∨ qpFull Params.default x' = qpFull Params.default x + 1)

/-! ## The control word -/

/-- `applyMode` replaces the five mode bits and preserves the other eleven; it is idempotent, nothing of the earlier mode
leaks, and it commutes with `applySel` and `applyReset`; the worked examples (40_register_model.md R97). -/
def Obligations.ApplyModeReplacesExactlyTheModeBits : Prop :=
  (∀ (p : Params) (cw : Word16) (m m' : Mode) (which : Which) (c : Chan) (r : Bool), p.bit.wf = true →
    applyMode p cw m = (cw &&& ~~~(modeMask p)) ||| modePat p m
    ∧ modeBitsOf p (applyMode p cw m) = p.modeTable.bits m
    ∧ (∀ n, n ∉ [p.bit.opbiten, p.bit.mode, p.bit.div2, p.bit.sleep1, p.bit.sleep12] →
        (applyMode p cw m).getLsbD n = cw.getLsbD n)
    ∧ applyMode p (applyMode p cw m) m = applyMode p cw m
    ∧ applyMode p (applyMode p cw m) m' = applyMode p cw m'
    ∧ applyMode p (applySel p cw which c) m = applySel p (applyMode p cw m) which c
    ∧ applyMode p (applyReset p cw r) m = applyReset p (applyMode p cw m) r)
  ∧ applyMode Params.default 0x2000#16 .triangle = 0x2002#16
  ∧ applyMode Params.default 0x2928#16 .off = 0x29C0#16

/-- `applySel` and `applyReset` write their one bit and preserve every other, so the two selections and the reset do not
interact; selecting channel 1 and then channel 0 restores a control word whose channel was 0; the worked examples
(40_register_model.md R98, R99). -/
def Obligations.SelectAndResetWriteOneBit : Prop :=
  (∀ (p : Params) (cw : Word16) (which : Which) (c : Chan) (r : Bool), p.bit.wf = true →
    (applySel p cw which c).getLsbD (selBit p which) = c.toBool
    ∧ (∀ n, n ≠ selBit p which → (applySel p cw which c).getLsbD n = cw.getLsbD n)
    ∧ applySel p (applySel p cw which c) which c = applySel p cw which c
    ∧ (cw.getLsbD (selBit p which) = false → applySel p (applySel p cw which .ch1) which .ch0 = cw)
    ∧ (applyReset p cw r).getLsbD p.bit.reset = r
    ∧ (∀ n, n ≠ p.bit.reset → (applyReset p cw r).getLsbD n = cw.getLsbD n))
  ∧ applySel Params.default 0x2000#16 .freq .ch1 = 0x2800#16
  ∧ applySel Params.default 0x2800#16 .phase .ch1 = 0x2C00#16
  ∧ applySel Params.default 0x2C00#16 .freq .ch0 = 0x2400#16
  ∧ applyReset Params.default 0x2000#16 true = 0x2100#16
  ∧ applyReset Params.default 0x2100#16 false = 0x2000#16

/-- The mode transition table: from every mode SETMODE goes to the mode asked for and emits the one word
`applyMode(CW, m)`; with the default parameters and `CW` 0x2000 apart from the mode bits, the words of the table's
columns, whatever the mode left (41_write_commands.md R122). -/
def Obligations.ModeTransitionTable : Prop :=
  (∀ (s : State) (m : Mode), s.arch.initDone = true →
    ∃ t a, exec (.setmode (BitVec.ofNat 4 m.toNat)) s = .next t ∧ t.pending = some a ∧ a.modeCache = m
      ∧ t.seq.words = [applyMode s.params s.arch.cw m])
  ∧ ∀ m0 : Mode,
    applyMode Params.default (applyMode Params.default 0x2000#16 m0) .off = 0x20C0#16
    ∧ applyMode Params.default (applyMode Params.default 0x2000#16 m0) .sine = 0x2000#16
    ∧ applyMode Params.default (applyMode Params.default 0x2000#16 m0) .square1 = 0x2028#16
    ∧ applyMode Params.default (applyMode Params.default 0x2000#16 m0) .square2 = 0x2020#16
    ∧ applyMode Params.default (applyMode Params.default 0x2000#16 m0) .triangle = 0x2002#16

/-! ## Whole-machine rules -/

/-- Every word of a command started in a state that meets the register invariant is of one of the five emitted formats:
no unnamed bit and no `HLB`, `B28` set, bit 12 of a phase word clear; and every control word carries one of the five
mode patterns of the table: for every command other than INIT whatever the table, for INIT, which sends control words
before it sets the mode, where the table has all bits of Sine clear, as the default has (30_encoding.md R75). -/
def Obligations.OnlyEmittedFormatsAreEmitted : Prop :=
  ∀ (s t : State) (i : Instr), RegisterInv s → s.busy = false → exec i s = .next t → t.busy = true →
    ∀ w ∈ t.seq.words, ∃ j, decode s.params (.w16 w) = .ok j ∧ j.isCommand = false
      ∧ (i ≠ .init ∨ s.params.modeTable.sine = ⟨false, false, false, false, false⟩ →
          ∀ f, j = .w16Ctrl f → ∃ m, modeBitsOf s.params w = s.params.modeTable.bits m)

/-- The lifecycle: a completed INIT leads to ACTIVE, RESET 1 to PARKED, RESET 0 to ACTIVE, every other command leaves the
lifecycle state where it is; a rejected command changes nothing (10_state.md R27). -/
def Obligations.LifecycleTransitions : Prop :=
  ∀ (p : Params) (a : Arch) (w : CmdWord), p.wf = true →
    lifecycle p (perform p a w).arch =
      if validate a.initDone w = none then
        if cmdOp w = 0#4 then .active
        else if w = 0xB100000000#40 then .parked
        else if w = 0xB000000000#40 then .active
        else lifecycle p a
      else lifecycle p a

/-- While parked every command but INIT and RESET 0 emits only control words that restate the held reset
(70_reset_and_hazards.md R178). -/
def Obligations.ControlWordsHoldTheResetWhileParked : Prop :=
  ∀ (p : Params) (a : Arch) (w : CmdWord) (x : Word16), p.wf = true → ArchInv p a → lifecycle p a = .parked →
    cmdOp w ≠ 0#4 → w ≠ 0xB000000000#40 → x ∈ (perform p a w).words → topCode x = topCode p.sel.ctrl →
    resetHeld p x = true

/-- How many words each command emits, and that INIT alone configures the transport: INIT 14, SETFREQ 3, SETPHASE,
SETMODE, SETFSEL, SETPSEL and RESET 1 one, RESET 0 one when held and two when not, an accessor and a rejected
command none (41_write_commands.md R118; 42_sequencer.md R132). -/
def Obligations.WordCounts : Prop :=
  ∀ (p : Params) (a : Arch) (w : CmdWord),
    ((perform p a w).configures = true ↔ w = 0#40)
    ∧ (perform p a w).words.length =
      if validate a.initDone w ≠ none then 0
      else if cmdOp w = 0#4 then 14
      else if cmdOp w = 1#4 then 3
      else if cmdOp w = 3#4 ∨ cmdOp w = 5#4 ∨ cmdOp w = 7#4 ∨ cmdOp w = 9#4 then 1
      else if w = 0xB100000000#40 then 1
      else if w = 0xB000000000#40 then (if resetHeld p a.cw then 1 else 2)
      else 0

/-- The document's laws: (a) SETMODE twice is SETMODE once; (b) from channel 0, selecting channel 1 and then channel 0
leaves `CW` as it was; (c) SETFSEL changes neither `CW[PSELECT]` nor `PSEL_ACTIVE`, and vice versa; (d) the three
words of SETFREQ 0; (e) RESET 1 then RESET 0 emits two words and leaves the reset released; (f) no command but INIT
changes `B28`, `HLB` or an unnamed bit (41_write_commands.md R120). -/
def Obligations.LawsOfTheSource : Prop :=
  ∀ (p : Params) (a : Arch), p.wf = true → a.initDone = true → ArchInv p a →
    (∀ (m : Mode), setmodeEffect p m (setmodeEffect p m a).arch = setmodeEffect p m a)
    ∧ (a.fselActive = .ch0 → (setfselEffect p .ch0 (setfselEffect p .ch1 a).arch).arch.cw = a.cw)
    ∧ (∀ c, (setfselEffect p c a).arch.cw.getLsbD p.bit.pselect = a.cw.getLsbD p.bit.pselect
        ∧ (setfselEffect p c a).arch.pselActive = a.pselActive
        ∧ (setpselEffect p c a).arch.cw.getLsbD p.bit.fselect = a.cw.getLsbD p.bit.fselect
        ∧ (setpselEffect p c a).arch.fselActive = a.fselActive)
    ∧ (∀ v, ∃ w1 w2 w3, (setfreqEffect p .ch0 v a).words = [w1, w2, w3] ∧ topCode w1 = topCode p.sel.ctrl
        ∧ topCode w2 = topCode p.sel.freq0 ∧ topCode w3 = topCode p.sel.freq0
        ∧ w2.extractLsb' 0 14 = (qf p v).extractLsb' 0 14 ∧ w3.extractLsb' 0 14 = (qf p v).extractLsb' 14 14)
    ∧ ((resetEffect p true a).words.length + (resetEffect p false (resetEffect p true a).arch).words.length = 2
        ∧ resetHeld p (resetEffect p false (resetEffect p true a).arch).arch.cw = false)
    ∧ (∀ (w : CmdWord) (n : Nat), cmdOp w ≠ 0#4 → n = p.bit.b28 ∨ n = p.bit.hlb ∨ n ∉ p.bit.toList →
        (perform p a w).arch.cw.getLsbD n = a.cw.getLsbD n)

/-- What a setter stored its accessor returns bit for bit, for each of the five pairs of setter and accessor, whatever the
quantizer made of it, and an accessor emits and changes nothing. A setter on one channel touches no register of the
other; SETFREQ touches no phase register and SETPHASE no frequency register; neither changes `CW`, the mode or either
selection; SETMODE changes neither selection, SETFSEL and SETPSEL not the other's selection and not the mode, and none
of the three a channel's registers (30_encoding.md R80; 10_state.md R18, R33; 40_register_model.md R100 to R105). -/
def Obligations.AccessorsReturnWhatWasSet : Prop :=
  ∀ (p : Params) (a : Arch) (c : Chan) (v : FreqOperand) (x : PhaseOperand) (m : Mode), a.initDone = true →
    let n := BitVec.ofNat 4 c.toNat
    let k := BitVec.ofNat 4 m.toNat
    let a1 := (perform p a (cmdWordOf 1#4 n v)).arch
    let a2 := (perform p a (cmdWordOf 3#4 n (x.setWidth 32))).arch
    let a3 := (perform p a (cmdWordOf 5#4 k 0#32)).arch
    let a4 := (perform p a (cmdWordOf 7#4 n 0#32)).arch
    let a5 := (perform p a (cmdWordOf 9#4 n 0#32)).arch
    perform p a1 (cmdWordOf 2#4 n 0#32) = ⟨false, [], ⟨.ok, v⟩, a1⟩
    ∧ perform p a2 (cmdWordOf 4#4 n 0#32) = ⟨false, [], ⟨.ok, x.setWidth 32⟩, a2⟩
    ∧ perform p a3 (cmdWordOf 6#4 0#4 0#32) = ⟨false, [], ⟨.ok, BitVec.ofNat 32 m.toNat⟩, a3⟩
    ∧ perform p a4 (cmdWordOf 8#4 0#4 0#32) = ⟨false, [], ⟨.ok, BitVec.ofNat 32 c.toNat⟩, a4⟩
    ∧ perform p a5 (cmdWordOf 10#4 0#4 0#32) = ⟨false, [], ⟨.ok, BitVec.ofNat 32 c.toNat⟩, a5⟩
    ∧ a1.chan c.other = a.chan c.other ∧ a2.chan c.other = a.chan c.other
    ∧ (a1.chan c).phaseUser = (a.chan c).phaseUser ∧ (a1.chan c).phaseWord = (a.chan c).phaseWord
    ∧ (a2.chan c).freqUser = (a.chan c).freqUser ∧ (a2.chan c).freqWord = (a.chan c).freqWord
    ∧ a1.cw = a.cw ∧ a1.modeCache = a.modeCache ∧ a1.fselActive = a.fselActive ∧ a1.pselActive = a.pselActive
    ∧ a2.cw = a.cw ∧ a2.modeCache = a.modeCache ∧ a2.fselActive = a.fselActive ∧ a2.pselActive = a.pselActive
    ∧ a3.fselActive = a.fselActive ∧ a3.pselActive = a.pselActive
    ∧ a4.pselActive = a.pselActive ∧ a4.modeCache = a.modeCache
    ∧ a5.fselActive = a.fselActive ∧ a5.modeCache = a.modeCache
    ∧ ∀ d, a3.chan d = a.chan d ∧ a4.chan d = a.chan d ∧ a5.chan d = a.chan d

/-- GETFSEL and GETPSEL answer what the control word says, and GETMODE the mode whose five bits the control word carries
(40_register_model.md R102 to R104; 10_state.md R19, R21). -/
def Obligations.AccessorsMirrorTheControlWord : Prop :=
  ∀ s : State, RegisterInv s → s.arch.initDone = true →
    (∃ t, exec .getfsel s = .next t
      ∧ t.rsp = some ⟨.ok, (BitVec.ofBool (s.arch.cw.getLsbD s.params.bit.fselect)).setWidth 32⟩)
    ∧ (∃ t, exec .getpsel s = .next t
      ∧ t.rsp = some ⟨.ok, (BitVec.ofBool (s.arch.cw.getLsbD s.params.bit.pselect)).setWidth 32⟩)
    ∧ (∀ m, modeBitsOf s.params s.arch.cw = s.params.modeTable.bits m →
      ∃ t, exec .getmode s = .next t ∧ t.rsp = some ⟨.ok, BitVec.ofNat 32 m.toNat⟩)

/-- The document's scenario: with `CW` 0x2000 and the default parameters, RESET 1 then RESET 0 are two writes, two frames,
and leave `CW` 0x2000 (41_write_commands.md R117; 42_sequencer.md R141 (c)). -/
def Obligations.ResetScenarioTwoFrames : Prop :=
  ∀ s : State, s.params = Params.default → idle s → s.arch.initDone = true → s.arch.cw = 0x2000#16 →
    s.script = [] → s.caller = [0xB100000000#40, 0xB000000000#40] →
    ∃ t, run 10 s = .next t ∧ t.arch = s.arch
      ∧ t.trace = s.trace ++ [.frameBegin, .byte 0x21#8, .byte 0x00#8, .frameEnd,
          .frameBegin, .byte 0x20#8, .byte 0x00#8, .frameEnd]
      ∧ t.rspLog = s.rspLog ++ [⟨.ok, 0#32⟩, ⟨.ok, 0#32⟩]

/-- From power-up, INIT calls `configure()` and sends the fourteen words of the worked example, and leaves the state of
10_state.md R31 (41_write_commands.md R111; 42_sequencer.md R141 (d)). The default frequency and phase are parameter
defaults (log 1). -/
def Obligations.InitFromPowerUp : Prop :=
  ∃ t, run 58 (powerUp Params.default [0#40] []) = .next t
    ∧ t.trace = .configure :: framesOf [0x2000#16, 0x2100#16, 0x2100#16, 0x69F1#16, 0x4000#16, 0x2100#16, 0xA9F1#16,
        0x8000#16, 0xC000#16, 0xE000#16, 0x2000#16, 0x2000#16, 0x2000#16, 0x2000#16]
    ∧ t.arch = ⟨0x2000#16, ⟨128000#32, 0#16, 10737#28, 0#12⟩, ⟨128000#32, 0#16, 10737#28, 0#12⟩, .ch0, .ch0, .sine, true⟩
    ∧ t.busy = false ∧ t.seq = ⟨[], 0, .idle⟩ ∧ t.frame = false
    ∧ t.rsp = some ⟨.ok, 0#32⟩ ∧ lifecycle t.params t.arch = .active

/-! ## Assembler -/

/-- An assembled decimal literal is exact, never rounded; the pseudo-commands are the commands they stand for; the example
of the rule (30_encoding.md R76, R77). -/
def Obligations.AssemblerNeverRounds : Prop :=
  (∀ (ch mant places : Nat) (c : BitVec 4) (v : FreqOperand),
    assemble (.setfreq ch (.decimal mant places)) = some (.setfreq c v) →
      c.toNat = ch ∧ v.toNat * 10 ^ places = mant * 2 ^ 7)
  ∧ (∀ (ch mant places : Nat) (c : BitVec 4) (x : PhaseOperand),
    assemble (.setphase ch (.decimal mant places)) = some (.setphase c x) →
      c.toNat = ch ∧ x.toNat * 10 ^ places = mant * 2 ^ 4)
  ∧ assemble .park = assemble (.reset 1) ∧ assemble .unpark = assemble (.reset 0)
  ∧ (assemble (.setfreq 0 (.decimal 1000 0))).map (encode Params.default) = some (.cmd40 0x100001F400#40)
end

