-- ==== Sys2Proof/Laws/Bits.lean ====
section
/-! SUPPORT. What a well-formed parameter record gives, and the bits of the control-word operations, one bit at a time. -/

namespace Sys2Proof

/-- The conditions of `Params.wf`, taken apart once. -/
structure Params.Conditions (p : Params) : Prop where
  fMaster_pos : 0 < p.fMaster
  phaseDen_pos : 0 < p.phaseDen
  defaultFreq_le : p.defaultFreq.toNat ≤ 3199999994
  bit_lt : ∀ i ∈ p.bit.toList, i < 14
  bit_nodup : p.bit.toList.Nodup
  selCtrl : p.sel.ctrl = 0#16
  freq0_low : p.sel.freq0.extractLsb' 0 14 = 0#14
  freq1_low : p.sel.freq1.extractLsb' 0 14 = 0#14
  phase0_low : p.sel.phase0.extractLsb' 0 13 = 0#13
  phase1_low : p.sel.phase1.extractLsb' 0 13 = 0#13
  codes : [topCode p.sel.ctrl, topCode p.sel.freq0, topCode p.sel.freq1, topCode p.sel.phase0].Nodup
  phase_top : topCode p.sel.phase1 = topCode p.sel.phase0
  phase_ne : p.sel.phase0 ≠ p.sel.phase1
  table : [p.modeTable.off, p.modeTable.sine, p.modeTable.square1, p.modeTable.square2, p.modeTable.triangle].Nodup

theorem Params.conditions_of_wf {p : Params} (h : p.wf = true) : p.Conditions := by
  simp only [Params.wf, BitPos.wf, Selectors.wf, ModeTable.wf, Bool.and_eq_true, decide_eq_true_eq, beq_iff_eq,
    bne_iff_ne, List.all_eq_true] at h
  obtain ⟨⟨⟨⟨⟨h1, h2⟩, h3⟩, h4, h5⟩, ⟨⟨⟨⟨⟨⟨h6, h7⟩, h8⟩, h9⟩, h10⟩, h11⟩, h12⟩, h13⟩, h14⟩ := h
  exact ⟨h1, h2, h3, h4, h5, h6, h7, h8, h9, h10, h11, h12, h13, h14⟩

theorem default_wf : Params.default.wf = true := by decide

/-- Two words are equal when they agree on bits 0 to 15. -/
theorem word16_ext {a b : Word16} (h : ∀ n, n < 16 → a.getLsbD n = b.getLsbD n) : a = b :=
  BitVec.eq_of_getLsbD_eq fun n hn => h n hn

@[simp] theorem bitAt_getLsbD (i n : Nat) : (bitAt i).getLsbD n = (decide (n < 16) && decide (n = i)) := by
  simp only [bitAt, BitVec.getLsbD_shiftLeft, BitVec.getLsbD_one]
  by_cases h : n = i
  · subst h; simp
  · by_cases hn : n < 16 <;> by_cases hi : n < i <;> simp [h, hn, hi]; omega

/-- A bit that is set or not, read back. -/
@[simp] theorem ite_bitAt_getLsbD (b : Bool) (i n : Nat) :
    (if b then bitAt i else 0#16).getLsbD n = (b && (decide (n < 16) && decide (n = i))) := by
  cases b <;> simp

/-- `set(cw, i, b)` writes bit `i` and no other. -/
theorem setBit_getLsbD (w : Word16) (i n : Nat) (b : Bool) (hi : i < 16) :
    (setBit w i b).getLsbD n = if n = i then b else w.getLsbD n := by
  by_cases hn : n < 16
  · simp only [setBit, BitVec.getLsbD_or, BitVec.getLsbD_and, BitVec.getLsbD_not, bitAt_getLsbD, ite_bitAt_getLsbD,
      hn, decide_true, Bool.true_and]
    by_cases h : n = i <;> simp [h]
  · have h1 : w.getLsbD n = false := BitVec.getLsbD_of_ge w n (by omega)
    have h2 : (setBit w i b).getLsbD n = false := BitVec.getLsbD_of_ge _ n (by omega)
    have h3 : n ≠ i := by omega
    simp [h1, h2, h3]

/-- The two bits of `topCode`. -/
theorem topCode_eq_iff (a b : Word16) :
    topCode a = topCode b ↔ a.getLsbD 14 = b.getLsbD 14 ∧ a.getLsbD 15 = b.getLsbD 15 := by
  constructor
  · intro h
    have h0 := congrArg (·.getLsbD 0) h
    have h1 := congrArg (·.getLsbD 1) h
    simpa [topCode] using And.intro h0 h1
  · rintro ⟨h0, h1⟩
    apply BitVec.eq_of_getLsbD_eq
    intro n hn
    rcases (by omega : n = 0 ∨ n = 1) with rfl | rfl <;> simpa [topCode]

/-- A selector without low bits, one bit at a time. -/
theorem low_bits_clear {w : Word16} {k : Nat} (h : w.extractLsb' 0 k = 0#k) {n : Nat} (hn : n < k) :
    w.getLsbD n = false := by
  have := congrArg (·.getLsbD n) h
  simpa [hn] using this

/-- The ten positions are pairwise distinct, as simp can use it in either direction. -/
theorem BitPos.ne_of_wf {b : BitPos} (h : b.wf = true) : b.toList.Nodup ∧ b.toList.reverse.Nodup := by
  simp only [BitPos.wf, Bool.and_eq_true, decide_eq_true_eq] at h
  exact ⟨h.2, List.nodup_reverse.2 h.2⟩

/-- The ten positions lie inside a word. -/
theorem BitPos.lt16_of_wf {b : BitPos} (h : b.wf = true) :
    b.b28 < 16 ∧ b.hlb < 16 ∧ b.fselect < 16 ∧ b.pselect < 16 ∧ b.reset < 16 ∧ b.sleep1 < 16 ∧ b.sleep12 < 16
      ∧ b.opbiten < 16 ∧ b.div2 < 16 ∧ b.mode < 16 := by
  simp only [BitPos.wf, Bool.and_eq_true, List.all_eq_true, decide_eq_true_eq] at h
  have hlt := h.1
  simp only [BitPos.toList, List.mem_cons, List.not_mem_nil, or_false, forall_eq_or_imp, forall_eq] at hlt
  omega

theorem Params.bit_wf {p : Params} (h : p.wf = true) : p.bit.wf = true := by
  simp only [Params.wf, Bool.and_eq_true] at h
  exact h.1.1.2

/-- A frequency selector has no bit below 14. -/
theorem Params.Conditions.freq_low {p : Params} (hc : p.Conditions) (c : Chan) {n : Nat} (hn : n < 14) :
    (p.sel.freq c).getLsbD n = false := by
  cases c
  · exact low_bits_clear hc.freq0_low hn
  · exact low_bits_clear hc.freq1_low hn

/-- A phase selector has no bit below 13. -/
theorem Params.Conditions.phase_low {p : Params} (hc : p.Conditions) (c : Chan) {n : Nat} (hn : n < 13) :
    (p.sel.phase c).getLsbD n = false := by
  cases c
  · exact low_bits_clear hc.phase0_low hn
  · exact low_bits_clear hc.phase1_low hn

theorem freqHalfWord_getLsbD (p : Params) (c : Chan) (h : Half) (n : Nat) :
    (freqHalfWord p c h).getLsbD n = ((p.sel.freq c).getLsbD n || (decide (n < 16) && h.getLsbD n)) := by
  simp [freqHalfWord]

theorem phWord_getLsbD (p : Params) (c : Chan) (q : PhaseWord) (n : Nat) :
    (phWord p c q).getLsbD n = ((p.sel.phase c).getLsbD n || (decide (n < 16) && q.getLsbD n)) := by
  simp [phWord]

theorem ctrlFieldMask_getLsbD (p : Params) (n : Nat) :
    (ctrlFieldMask p).getLsbD n = (decide (n < 16) &&
      (decide (n = p.bit.fselect) || decide (n = p.bit.pselect) || decide (n = p.bit.reset)
        || decide (n = p.bit.sleep1) || decide (n = p.bit.sleep12) || decide (n = p.bit.opbiten)
        || decide (n = p.bit.div2) || decide (n = p.bit.mode))) := by
  simp only [ctrlFieldMask, BitVec.getLsbD_or, bitAt_getLsbD]
  cases decide (n < 16) <;> simp

theorem ctrlFixedBits_getLsbD {p : Params} (hc : p.Conditions) (n : Nat) :
    (ctrlFixedBits p).getLsbD n = (decide (n < 16) && decide (n = p.bit.b28)) := by
  simp [ctrlFixedBits, hc.selCtrl]

theorem ctrlWord_getLsbD {p : Params} (hc : p.Conditions) (f : CtrlFields) (n : Nat) :
    (ctrlWord p f).getLsbD n = (decide (n < 16) &&
      (decide (n = p.bit.b28) || (f.fselect && decide (n = p.bit.fselect)) || (f.pselect && decide (n = p.bit.pselect))
        || (f.reset && decide (n = p.bit.reset)) || (f.sleep1 && decide (n = p.bit.sleep1))
        || (f.sleep12 && decide (n = p.bit.sleep12)) || (f.opbiten && decide (n = p.bit.opbiten))
        || (f.div2 && decide (n = p.bit.div2)) || (f.mode && decide (n = p.bit.mode)))) := by
  simp only [ctrlWord, BitVec.getLsbD_or, ite_bitAt_getLsbD, ctrlFixedBits_getLsbD hc]
  cases decide (n < 16) <;> simp

end Sys2Proof

namespace Sys2Proof.Machine

open Sys2Proof

/-- The mode pattern, one bit at a time. -/
theorem modeBitsWord_getLsbD (p : Params) (b : ModeBits) (n : Nat) :
    (modeBitsWord p b).getLsbD n = (decide (n < 16) &&
      ((b.opbiten && decide (n = p.bit.opbiten)) || (b.mode && decide (n = p.bit.mode))
        || (b.div2 && decide (n = p.bit.div2)) || (b.sleep1 && decide (n = p.bit.sleep1))
        || (b.sleep12 && decide (n = p.bit.sleep12)))) := by
  simp only [modeBitsWord, BitVec.getLsbD_or, ite_bitAt_getLsbD]
  cases decide (n < 16) <;> simp

/-- The mode mask, one bit at a time. -/
theorem modeMask_getLsbD (p : Params) (n : Nat) :
    (modeMask p).getLsbD n = (decide (n < 16) &&
      (decide (n = p.bit.opbiten) || decide (n = p.bit.mode) || decide (n = p.bit.div2)
        || decide (n = p.bit.sleep1) || decide (n = p.bit.sleep12))) := by
  simp only [modeMask, BitVec.getLsbD_or, bitAt_getLsbD]
  cases decide (n < 16) <;> simp

/-- `applyMode` outside the five mode bits. -/
theorem applyMode_getLsbD_other (p : Params) (cw : Word16) (m : Mode) (n : Nat)
    (h : n ∉ [p.bit.opbiten, p.bit.mode, p.bit.div2, p.bit.sleep1, p.bit.sleep12]) :
    (applyMode p cw m).getLsbD n = cw.getLsbD n := by
  simp only [List.mem_cons, List.not_mem_nil, or_false, not_or] at h
  obtain ⟨h1, h2, h3, h4, h5⟩ := h
  by_cases hn : n < 16
  · simp only [applyMode, modePat, BitVec.getLsbD_or, BitVec.getLsbD_and, BitVec.getLsbD_not, modeBitsWord_getLsbD,
      modeMask_getLsbD, h1, h2, h3, h4, h5]
    simp [hn]
  · simp [BitVec.getLsbD_of_ge _ n (by omega : 16 ≤ n)]

/-- `applyMode`, one bit at a time. -/
theorem applyMode_getLsbD (p : Params) (cw : Word16) (m : Mode) (n : Nat) (hn : n < 16) :
    (applyMode p cw m).getLsbD n =
      if n = p.bit.opbiten ∨ n = p.bit.mode ∨ n = p.bit.div2 ∨ n = p.bit.sleep1 ∨ n = p.bit.sleep12 then
        (modePat p m).getLsbD n
      else cw.getLsbD n := by
  simp only [applyMode, BitVec.getLsbD_or, BitVec.getLsbD_and, BitVec.getLsbD_not, modeMask_getLsbD, modePat,
    modeBitsWord_getLsbD, hn, decide_true, Bool.true_and]
  split
  · rename_i h
    rcases h with h | h | h | h | h <;> simp [h]
  · rename_i h
    simp only [not_or] at h
    simp [h]

/-- The registers of a channel after those of a channel were replaced. -/
theorem Arch.chan_setChan (a : Arch) (c c' : Chan) (r : Channel) :
    (a.setChan c r).chan c' = if c' = c then r else a.chan c' := by
  cases c <;> cases c' <;> rfl

@[simp] theorem Arch.setChan_cw (a : Arch) (c : Chan) (r : Channel) : (a.setChan c r).cw = a.cw := by cases c <;> rfl
@[simp] theorem Arch.setChan_fselActive (a : Arch) (c : Chan) (r : Channel) :
    (a.setChan c r).fselActive = a.fselActive := by cases c <;> rfl
@[simp] theorem Arch.setChan_pselActive (a : Arch) (c : Chan) (r : Channel) :
    (a.setChan c r).pselActive = a.pselActive := by cases c <;> rfl
@[simp] theorem Arch.setChan_modeCache (a : Arch) (c : Chan) (r : Channel) :
    (a.setChan c r).modeCache = a.modeCache := by cases c <;> rfl
@[simp] theorem Arch.setChan_initDone (a : Arch) (c : Chan) (r : Channel) :
    (a.setChan c r).initDone = a.initDone := by cases c <;> rfl

theorem applyReset_getLsbD (p : Params) (cw : Word16) (r : Bool) (n : Nat) (hi : p.bit.reset < 16) :
    (applyReset p cw r).getLsbD n = if n = p.bit.reset then r else cw.getLsbD n :=
  setBit_getLsbD cw p.bit.reset n r hi

theorem applySel_getLsbD (p : Params) (cw : Word16) (which : Which) (c : Chan) (n : Nat)
    (hi : selBit p which < 16) :
    (applySel p cw which c).getLsbD n = if n = selBit p which then c.toBool else cw.getLsbD n :=
  setBit_getLsbD cw (selBit p which) n c.toBool hi

/-- Writing a select bit or the bit `RESET` leaves the five mode bits as they are. -/
theorem modeBitsOf_setBit {p : Params} (hp : p.bit.wf = true) (cw : Word16) (b : Bool) {i : Nat}
    (hi : i = p.bit.fselect ∨ i = p.bit.pselect ∨ i = p.bit.reset) :
    modeBitsOf p (setBit cw i b) = modeBitsOf p cw := by
  have hl := BitPos.lt16_of_wf hp
  have hn := BitPos.ne_of_wf hp
  simp only [BitPos.toList, List.reverse_cons, List.reverse_nil, List.nil_append, List.cons_append, List.nodup_cons,
    List.mem_cons, List.not_mem_nil, or_false, not_or] at hn
  rcases hi with rfl | rfl | rfl <;> simp only [modeBitsOf, setBit_getLsbD, hl] <;> simp [hn]

theorem chanOf_cases (c : BitVec 4) :
    (c = 0#4 ∧ chanOf c = some .ch0) ∨ (c = 1#4 ∧ chanOf c = some .ch1) ∨ (1 < c.toNat ∧ chanOf c = none) := by
  revert c; decide

theorem modeOf_cases (m : BitVec 4) :
    (∃ md : Mode, m = BitVec.ofNat 4 md.toNat ∧ modeOf m = some md) ∨ (4 < m.toNat ∧ modeOf m = none) := by
  by_cases h : 4 < m.toNat
  · refine Or.inr ⟨h, ?_⟩
    revert h; revert m; decide
  · refine Or.inl ?_
    have : m = 0#4 ∨ m = 1#4 ∨ m = 2#4 ∨ m = 3#4 ∨ m = 4#4 := by revert h; revert m; decide
    rcases this with rfl | rfl | rfl | rfl | rfl
    exacts [⟨.off, rfl, rfl⟩, ⟨.sine, rfl, rfl⟩, ⟨.square1, rfl, rfl⟩, ⟨.square2, rfl, rfl⟩, ⟨.triangle, rfl, rfl⟩]

end Sys2Proof.Machine
end

