-- ==== Sys2Proof/Laws/State.lean ====
section
/-! SUPPORT. One lemma for each field of State under each shared operation, true by rfl, so that no later proof unfolds a record update. -/

namespace Sys2Proof.Machine

@[simp] theorem respond_params (st : Status) (v : BitVec 32) (s : State) : (respond st v s).params = s.params := rfl
@[simp] theorem respond_arch (st : Status) (v : BitVec 32) (s : State) : (respond st v s).arch = s.arch := rfl
@[simp] theorem respond_busy (st : Status) (v : BitVec 32) (s : State) : (respond st v s).busy = s.busy := rfl
@[simp] theorem respond_seq (st : Status) (v : BitVec 32) (s : State) : (respond st v s).seq = s.seq := rfl
@[simp] theorem respond_pending (st : Status) (v : BitVec 32) (s : State) : (respond st v s).pending = s.pending := rfl
@[simp] theorem respond_frame (st : Status) (v : BitVec 32) (s : State) : (respond st v s).frame = s.frame := rfl
@[simp] theorem respond_caller (st : Status) (v : BitVec 32) (s : State) : (respond st v s).caller = s.caller := rfl
@[simp] theorem respond_rsp (st : Status) (v : BitVec 32) (s : State) : (respond st v s).rsp = some ⟨st, v⟩ := rfl
@[simp] theorem respond_script (st : Status) (v : BitVec 32) (s : State) : (respond st v s).script = s.script := rfl
@[simp] theorem respond_trace (st : Status) (v : BitVec 32) (s : State) : (respond st v s).trace = s.trace := rfl
@[simp] theorem respond_rspLog (st : Status) (v : BitVec 32) (s : State) : (respond st v s).rspLog = s.rspLog ++ [⟨st, v⟩] := rfl
@[simp] theorem respond_rxBytes (st : Status) (v : BitVec 32) (s : State) : (respond st v s).rxBytes = s.rxBytes := rfl
@[simp] theorem respond_dev (st : Status) (v : BitVec 32) (s : State) : (respond st v s).dev = s.dev := rfl

@[simp] theorem reject_params (st : Status) (s : State) : (reject st s).params = s.params := rfl
@[simp] theorem reject_arch (st : Status) (s : State) : (reject st s).arch = s.arch := rfl
@[simp] theorem reject_busy (st : Status) (s : State) : (reject st s).busy = s.busy := rfl
@[simp] theorem reject_seq (st : Status) (s : State) : (reject st s).seq = s.seq := rfl
@[simp] theorem reject_pending (st : Status) (s : State) : (reject st s).pending = s.pending := rfl
@[simp] theorem reject_frame (st : Status) (s : State) : (reject st s).frame = s.frame := rfl
@[simp] theorem reject_caller (st : Status) (s : State) : (reject st s).caller = s.caller := rfl
@[simp] theorem reject_rsp (st : Status) (s : State) : (reject st s).rsp = some ⟨st, 0#32⟩ := rfl
@[simp] theorem reject_script (st : Status) (s : State) : (reject st s).script = s.script := rfl
@[simp] theorem reject_trace (st : Status) (s : State) : (reject st s).trace = s.trace := rfl
@[simp] theorem reject_rspLog (st : Status) (s : State) : (reject st s).rspLog = s.rspLog ++ [⟨st, 0#32⟩] := rfl
@[simp] theorem reject_rxBytes (st : Status) (s : State) : (reject st s).rxBytes = s.rxBytes := rfl
@[simp] theorem reject_dev (st : Status) (s : State) : (reject st s).dev = s.dev := rfl

@[simp] theorem answer_params (v : BitVec 32) (s : State) : (answer v s).params = s.params := rfl
@[simp] theorem answer_arch (v : BitVec 32) (s : State) : (answer v s).arch = s.arch := rfl
@[simp] theorem answer_busy (v : BitVec 32) (s : State) : (answer v s).busy = s.busy := rfl
@[simp] theorem answer_seq (v : BitVec 32) (s : State) : (answer v s).seq = s.seq := rfl
@[simp] theorem answer_pending (v : BitVec 32) (s : State) : (answer v s).pending = s.pending := rfl
@[simp] theorem answer_frame (v : BitVec 32) (s : State) : (answer v s).frame = s.frame := rfl
@[simp] theorem answer_caller (v : BitVec 32) (s : State) : (answer v s).caller = s.caller := rfl
@[simp] theorem answer_rsp (v : BitVec 32) (s : State) : (answer v s).rsp = some ⟨.ok, v⟩ := rfl
@[simp] theorem answer_script (v : BitVec 32) (s : State) : (answer v s).script = s.script := rfl
@[simp] theorem answer_trace (v : BitVec 32) (s : State) : (answer v s).trace = s.trace := rfl
@[simp] theorem answer_rspLog (v : BitVec 32) (s : State) : (answer v s).rspLog = s.rspLog ++ [⟨.ok, v⟩] := rfl
@[simp] theorem answer_rxBytes (v : BitVec 32) (s : State) : (answer v s).rxBytes = s.rxBytes := rfl
@[simp] theorem answer_dev (v : BitVec 32) (s : State) : (answer v s).dev = s.dev := rfl

@[simp] theorem startWrite_params (cfg : Bool) (e : Effect) (s : State) : (startWrite cfg e s).params = s.params := rfl
@[simp] theorem startWrite_arch (cfg : Bool) (e : Effect) (s : State) : (startWrite cfg e s).arch = s.arch := rfl
@[simp] theorem startWrite_busy (cfg : Bool) (e : Effect) (s : State) : (startWrite cfg e s).busy = true := rfl
@[simp] theorem startWrite_seq (cfg : Bool) (e : Effect) (s : State) : (startWrite cfg e s).seq = ⟨e.words, 0, if cfg then .cfg else .frameBegin⟩ := rfl
@[simp] theorem startWrite_pending (cfg : Bool) (e : Effect) (s : State) : (startWrite cfg e s).pending = some e.arch := rfl
@[simp] theorem startWrite_frame (cfg : Bool) (e : Effect) (s : State) : (startWrite cfg e s).frame = s.frame := rfl
@[simp] theorem startWrite_caller (cfg : Bool) (e : Effect) (s : State) : (startWrite cfg e s).caller = s.caller := rfl
@[simp] theorem startWrite_rsp (cfg : Bool) (e : Effect) (s : State) : (startWrite cfg e s).rsp = s.rsp := rfl
@[simp] theorem startWrite_script (cfg : Bool) (e : Effect) (s : State) : (startWrite cfg e s).script = s.script := rfl
@[simp] theorem startWrite_trace (cfg : Bool) (e : Effect) (s : State) : (startWrite cfg e s).trace = s.trace := rfl
@[simp] theorem startWrite_rspLog (cfg : Bool) (e : Effect) (s : State) : (startWrite cfg e s).rspLog = s.rspLog := rfl
@[simp] theorem startWrite_rxBytes (cfg : Bool) (e : Effect) (s : State) : (startWrite cfg e s).rxBytes = s.rxBytes := rfl
@[simp] theorem startWrite_dev (cfg : Bool) (e : Effect) (s : State) : (startWrite cfg e s).dev = s.dev := rfl

@[simp] theorem emitEvent_params (e : Event) (s : State) : (emitEvent e s).params = s.params := rfl
@[simp] theorem emitEvent_arch (e : Event) (s : State) : (emitEvent e s).arch = s.arch := rfl
@[simp] theorem emitEvent_busy (e : Event) (s : State) : (emitEvent e s).busy = s.busy := rfl
@[simp] theorem emitEvent_seq (e : Event) (s : State) : (emitEvent e s).seq = s.seq := rfl
@[simp] theorem emitEvent_pending (e : Event) (s : State) : (emitEvent e s).pending = s.pending := rfl
@[simp] theorem emitEvent_frame (e : Event) (s : State) : (emitEvent e s).frame = s.frame := rfl
@[simp] theorem emitEvent_caller (e : Event) (s : State) : (emitEvent e s).caller = s.caller := rfl
@[simp] theorem emitEvent_rsp (e : Event) (s : State) : (emitEvent e s).rsp = s.rsp := rfl
@[simp] theorem emitEvent_script (e : Event) (s : State) : (emitEvent e s).script = s.script := rfl
@[simp] theorem emitEvent_trace (e : Event) (s : State) : (emitEvent e s).trace = s.trace ++ [e] := rfl
@[simp] theorem emitEvent_rspLog (e : Event) (s : State) : (emitEvent e s).rspLog = s.rspLog := rfl
@[simp] theorem emitEvent_rxBytes (e : Event) (s : State) : (emitEvent e s).rxBytes = s.rxBytes := rfl
@[simp] theorem emitEvent_dev (e : Event) (s : State) : (emitEvent e s).dev = s.dev := rfl

@[simp] theorem doConfigure_params (s : State) : (doConfigure s).params = s.params := rfl
@[simp] theorem doConfigure_arch (s : State) : (doConfigure s).arch = s.arch := rfl
@[simp] theorem doConfigure_busy (s : State) : (doConfigure s).busy = s.busy := rfl
@[simp] theorem doConfigure_seq (s : State) : (doConfigure s).seq = s.seq := rfl
@[simp] theorem doConfigure_pending (s : State) : (doConfigure s).pending = s.pending := rfl
@[simp] theorem doConfigure_frame (s : State) : (doConfigure s).frame = s.frame := rfl
@[simp] theorem doConfigure_caller (s : State) : (doConfigure s).caller = s.caller := rfl
@[simp] theorem doConfigure_rsp (s : State) : (doConfigure s).rsp = s.rsp := rfl
@[simp] theorem doConfigure_script (s : State) : (doConfigure s).script = s.script := rfl
@[simp] theorem doConfigure_trace (s : State) : (doConfigure s).trace = s.trace ++ [.configure] := rfl
@[simp] theorem doConfigure_rspLog (s : State) : (doConfigure s).rspLog = s.rspLog := rfl
@[simp] theorem doConfigure_rxBytes (s : State) : (doConfigure s).rxBytes = s.rxBytes := rfl
@[simp] theorem doConfigure_dev (s : State) : (doConfigure s).dev = s.dev := rfl

@[simp] theorem doBeginFrame_params (s : State) : (doBeginFrame s).params = s.params := rfl
@[simp] theorem doBeginFrame_arch (s : State) : (doBeginFrame s).arch = s.arch := rfl
@[simp] theorem doBeginFrame_busy (s : State) : (doBeginFrame s).busy = s.busy := rfl
@[simp] theorem doBeginFrame_seq (s : State) : (doBeginFrame s).seq = s.seq := rfl
@[simp] theorem doBeginFrame_pending (s : State) : (doBeginFrame s).pending = s.pending := rfl
@[simp] theorem doBeginFrame_frame (s : State) : (doBeginFrame s).frame = true := rfl
@[simp] theorem doBeginFrame_caller (s : State) : (doBeginFrame s).caller = s.caller := rfl
@[simp] theorem doBeginFrame_rsp (s : State) : (doBeginFrame s).rsp = s.rsp := rfl
@[simp] theorem doBeginFrame_script (s : State) : (doBeginFrame s).script = s.script := rfl
@[simp] theorem doBeginFrame_trace (s : State) : (doBeginFrame s).trace = s.trace ++ [.frameBegin] := rfl
@[simp] theorem doBeginFrame_rspLog (s : State) : (doBeginFrame s).rspLog = s.rspLog := rfl
@[simp] theorem doBeginFrame_rxBytes (s : State) : (doBeginFrame s).rxBytes = [] := rfl
@[simp] theorem doBeginFrame_dev (s : State) : (doBeginFrame s).dev = s.dev := rfl

@[simp] theorem doTransferByte_params (b : Byte) (s : State) : (doTransferByte b s).params = s.params := rfl
@[simp] theorem doTransferByte_arch (b : Byte) (s : State) : (doTransferByte b s).arch = s.arch := rfl
@[simp] theorem doTransferByte_busy (b : Byte) (s : State) : (doTransferByte b s).busy = s.busy := rfl
@[simp] theorem doTransferByte_seq (b : Byte) (s : State) : (doTransferByte b s).seq = s.seq := rfl
@[simp] theorem doTransferByte_pending (b : Byte) (s : State) : (doTransferByte b s).pending = s.pending := rfl
@[simp] theorem doTransferByte_frame (b : Byte) (s : State) : (doTransferByte b s).frame = s.frame := rfl
@[simp] theorem doTransferByte_caller (b : Byte) (s : State) : (doTransferByte b s).caller = s.caller := rfl
@[simp] theorem doTransferByte_rsp (b : Byte) (s : State) : (doTransferByte b s).rsp = s.rsp := rfl
@[simp] theorem doTransferByte_script (b : Byte) (s : State) : (doTransferByte b s).script = s.script := rfl
@[simp] theorem doTransferByte_trace (b : Byte) (s : State) : (doTransferByte b s).trace = s.trace ++ [.byte b] := rfl
@[simp] theorem doTransferByte_rspLog (b : Byte) (s : State) : (doTransferByte b s).rspLog = s.rspLog := rfl
@[simp] theorem doTransferByte_rxBytes (b : Byte) (s : State) : (doTransferByte b s).rxBytes = s.rxBytes ++ [b] := rfl
@[simp] theorem doTransferByte_dev (b : Byte) (s : State) : (doTransferByte b s).dev = s.dev := rfl

@[simp] theorem doEndFrame_params (s : State) : (doEndFrame s).params = s.params := rfl
@[simp] theorem doEndFrame_arch (s : State) : (doEndFrame s).arch = s.arch := rfl
@[simp] theorem doEndFrame_busy (s : State) : (doEndFrame s).busy = s.busy := rfl
@[simp] theorem doEndFrame_seq (s : State) : (doEndFrame s).seq = s.seq := rfl
@[simp] theorem doEndFrame_pending (s : State) : (doEndFrame s).pending = s.pending := rfl
@[simp] theorem doEndFrame_frame (s : State) : (doEndFrame s).frame = false := rfl
@[simp] theorem doEndFrame_caller (s : State) : (doEndFrame s).caller = s.caller := rfl
@[simp] theorem doEndFrame_rsp (s : State) : (doEndFrame s).rsp = s.rsp := rfl
@[simp] theorem doEndFrame_script (s : State) : (doEndFrame s).script = s.script := rfl
@[simp] theorem doEndFrame_trace (s : State) : (doEndFrame s).trace = s.trace ++ [.frameEnd] := rfl
@[simp] theorem doEndFrame_rspLog (s : State) : (doEndFrame s).rspLog = s.rspLog := rfl
@[simp] theorem doEndFrame_rxBytes (s : State) : (doEndFrame s).rxBytes = [] := rfl
@[simp] theorem doEndFrame_dev (s : State) : (doEndFrame s).dev = s.dev := rfl

@[simp] theorem setPhase_params (ph : Phase) (s : State) : (setPhase ph s).params = s.params := rfl
@[simp] theorem setPhase_arch (ph : Phase) (s : State) : (setPhase ph s).arch = s.arch := rfl
@[simp] theorem setPhase_busy (ph : Phase) (s : State) : (setPhase ph s).busy = s.busy := rfl
@[simp] theorem setPhase_seq (ph : Phase) (s : State) : (setPhase ph s).seq = ⟨s.seq.words, s.seq.idx, ph⟩ := rfl
@[simp] theorem setPhase_pending (ph : Phase) (s : State) : (setPhase ph s).pending = s.pending := rfl
@[simp] theorem setPhase_frame (ph : Phase) (s : State) : (setPhase ph s).frame = s.frame := rfl
@[simp] theorem setPhase_caller (ph : Phase) (s : State) : (setPhase ph s).caller = s.caller := rfl
@[simp] theorem setPhase_rsp (ph : Phase) (s : State) : (setPhase ph s).rsp = s.rsp := rfl
@[simp] theorem setPhase_script (ph : Phase) (s : State) : (setPhase ph s).script = s.script := rfl
@[simp] theorem setPhase_trace (ph : Phase) (s : State) : (setPhase ph s).trace = s.trace := rfl
@[simp] theorem setPhase_rspLog (ph : Phase) (s : State) : (setPhase ph s).rspLog = s.rspLog := rfl
@[simp] theorem setPhase_rxBytes (ph : Phase) (s : State) : (setPhase ph s).rxBytes = s.rxBytes := rfl
@[simp] theorem setPhase_dev (ph : Phase) (s : State) : (setPhase ph s).dev = s.dev := rfl

@[simp] theorem clearRsp_params (s : State) : (clearRsp s).params = s.params := rfl
@[simp] theorem clearRsp_arch (s : State) : (clearRsp s).arch = s.arch := rfl
@[simp] theorem clearRsp_busy (s : State) : (clearRsp s).busy = s.busy := rfl
@[simp] theorem clearRsp_seq (s : State) : (clearRsp s).seq = s.seq := rfl
@[simp] theorem clearRsp_pending (s : State) : (clearRsp s).pending = s.pending := rfl
@[simp] theorem clearRsp_frame (s : State) : (clearRsp s).frame = s.frame := rfl
@[simp] theorem clearRsp_caller (s : State) : (clearRsp s).caller = s.caller := rfl
@[simp] theorem clearRsp_rsp (s : State) : (clearRsp s).rsp = none := rfl
@[simp] theorem clearRsp_script (s : State) : (clearRsp s).script = s.script := rfl
@[simp] theorem clearRsp_trace (s : State) : (clearRsp s).trace = s.trace := rfl
@[simp] theorem clearRsp_rspLog (s : State) : (clearRsp s).rspLog = s.rspLog := rfl
@[simp] theorem clearRsp_rxBytes (s : State) : (clearRsp s).rxBytes = s.rxBytes := rfl
@[simp] theorem clearRsp_dev (s : State) : (clearRsp s).dev = s.dev := rfl

@[simp] theorem commit_params (s : State) : (commit s).params = s.params := by
  unfold commit; split <;> simp_all
@[simp] theorem commit_arch (s : State) : (commit s).arch = s.pending.getD s.arch := by
  unfold commit; split <;> simp_all
@[simp] theorem commit_busy (s : State) : (commit s).busy = s.busy := by
  unfold commit; split <;> simp_all
@[simp] theorem commit_seq (s : State) : (commit s).seq = s.seq := by
  unfold commit; split <;> simp_all
@[simp] theorem commit_pending (s : State) : (commit s).pending = none := by
  unfold commit; split <;> simp_all
@[simp] theorem commit_frame (s : State) : (commit s).frame = s.frame := by
  unfold commit; split <;> simp_all
@[simp] theorem commit_caller (s : State) : (commit s).caller = s.caller := by
  unfold commit; split <;> simp_all
@[simp] theorem commit_rsp (s : State) : (commit s).rsp = s.rsp := by
  unfold commit; split <;> simp_all
@[simp] theorem commit_script (s : State) : (commit s).script = s.script := by
  unfold commit; split <;> simp_all
@[simp] theorem commit_trace (s : State) : (commit s).trace = s.trace := by
  unfold commit; split <;> simp_all
@[simp] theorem commit_rspLog (s : State) : (commit s).rspLog = s.rspLog := by
  unfold commit; split <;> simp_all
@[simp] theorem commit_rxBytes (s : State) : (commit s).rxBytes = s.rxBytes := by
  unfold commit; split <;> simp_all
@[simp] theorem commit_dev (s : State) : (commit s).dev = s.dev := by
  unfold commit; split <;> simp_all

@[simp] theorem finish_params (s : State) : (finish s).params = s.params := by simp [finish]
@[simp] theorem finish_arch (s : State) : (finish s).arch = s.pending.getD s.arch := by simp [finish]
@[simp] theorem finish_busy (s : State) : (finish s).busy = false := rfl
@[simp] theorem finish_seq (s : State) : (finish s).seq = Seq.atRest := rfl
@[simp] theorem finish_pending (s : State) : (finish s).pending = none := by simp [finish]
@[simp] theorem finish_frame (s : State) : (finish s).frame = s.frame := by simp [finish]
@[simp] theorem finish_caller (s : State) : (finish s).caller = s.caller := by simp [finish]
@[simp] theorem finish_rsp (s : State) : (finish s).rsp = some ⟨.ok, 0#32⟩ := by simp [finish]
@[simp] theorem finish_script (s : State) : (finish s).script = s.script := by simp [finish]
@[simp] theorem finish_trace (s : State) : (finish s).trace = s.trace := by simp [finish]
@[simp] theorem finish_rspLog (s : State) : (finish s).rspLog = s.rspLog ++ [⟨.ok, 0#32⟩] := by simp [finish]
@[simp] theorem finish_rxBytes (s : State) : (finish s).rxBytes = s.rxBytes := by simp [finish]
@[simp] theorem finish_dev (s : State) : (finish s).dev = s.dev := by simp [finish]

@[simp] theorem reset_initDone : State.reset.arch.initDone = false := rfl
@[simp] theorem reset_busy : State.reset.busy = false := rfl
@[simp] theorem reset_seq : State.reset.seq = Seq.atRest := rfl
@[simp] theorem reset_pending : State.reset.pending = none := rfl
@[simp] theorem reset_trace : State.reset.trace = [] := rfl
@[simp] theorem reset_dev : State.reset.dev = Dev.empty := rfl
@[simp] theorem reset_params : State.reset.params = Params.default := rfl

@[simp] theorem chan_setChan_same (a : Arch) (c : Chan) (r : Channel) : (a.setChan c r).chan c = r := by
  cases c <;> rfl

@[simp] theorem chan_setChan_other (a : Arch) (c : Chan) (r : Channel) :
    (a.setChan c r).chan c.other = a.chan c.other := by
  cases c <;> rfl

@[simp] theorem setChan_cw (a : Arch) (c : Chan) (r : Channel) : (a.setChan c r).cw = a.cw := by cases c <;> rfl
@[simp] theorem setChan_fselActive (a : Arch) (c : Chan) (r : Channel) :
    (a.setChan c r).fselActive = a.fselActive := by cases c <;> rfl
@[simp] theorem setChan_pselActive (a : Arch) (c : Chan) (r : Channel) :
    (a.setChan c r).pselActive = a.pselActive := by cases c <;> rfl
@[simp] theorem setChan_modeCache (a : Arch) (c : Chan) (r : Channel) :
    (a.setChan c r).modeCache = a.modeCache := by cases c <;> rfl
@[simp] theorem setChan_initDone (a : Arch) (c : Chan) (r : Channel) :
    (a.setChan c r).initDone = a.initDone := by cases c <;> rfl

@[simp] theorem devChan_setChan_same (d : Dev) (c : Chan) (r : DevChan) : (d.setChan c r).chan c = r := by
  cases c <;> rfl

@[simp] theorem devChan_setChan_other (d : Dev) (c : Chan) (r : DevChan) :
    (d.setChan c r).chan c.other = d.chan c.other := by
  cases c <;> rfl

@[simp] theorem devSetChan_ctrl (d : Dev) (c : Chan) (r : DevChan) : (d.setChan c r).ctrl = d.ctrl := by
  cases c <;> rfl
@[simp] theorem devSetChan_load (d : Dev) (c : Chan) (r : DevChan) : (d.setChan c r).load = d.load := by
  cases c <;> rfl
@[simp] theorem devSetChan_fault (d : Dev) (c : Chan) (r : DevChan) : (d.setChan c r).fault = d.fault := by
  cases c <;> rfl

end Sys2Proof.Machine
end

