-- ==== Sys2Proof/Laws/Ops.lean ====
section
/-! SUPPORT. What each shared operation can do, said once: validation, the meanings, the receiver, the micro-steps. -/

namespace Sys2Proof.Machine

open Sys2Proof

/-- Validation of a channel operand: ERR_INVALID, ERR_NOT_INIT, or the command with its channel. -/
theorem withChan_cases (c : BitVec 4) (s : State) (k : Chan → Result) :
    (chanOf c = none ∧ withChan c s k = .next (reject .errInvalid s))
    ∨ (∃ ch, chanOf c = some ch ∧ s.arch.initDone = false ∧ withChan c s k = .next (reject .errNotInit s))
    ∨ (∃ ch, chanOf c = some ch ∧ s.arch.initDone = true ∧ withChan c s k = k ch) := by
  unfold withChan
  cases hc : chanOf c with
  | none => simp
  | some ch => cases hi : s.arch.initDone <;> simp [needInit, hi]

/-- Validation of a mode operand: ERR_INVALID, ERR_NOT_INIT, or the command with its mode. -/
theorem withMode_cases (m : BitVec 4) (s : State) (k : Mode → Result) :
    (modeOf m = none ∧ withMode m s k = .next (reject .errInvalid s))
    ∨ (∃ md, modeOf m = some md ∧ s.arch.initDone = false ∧ withMode m s k = .next (reject .errNotInit s))
    ∨ (∃ md, modeOf m = some md ∧ s.arch.initDone = true ∧ withMode m s k = k md) := by
  unfold withMode
  cases hm : modeOf m with
  | none => simp
  | some md => cases hi : s.arch.initDone <;> simp [needInit, hi]

/-- Validation of a command without an operand to check: ERR_NOT_INIT, or the command. -/
theorem needInit_cases (s : State) (k : Result) :
    (s.arch.initDone = false ∧ needInit s k = .next (reject .errNotInit s))
    ∨ (s.arch.initDone = true ∧ needInit s k = k) := by
  cases hi : s.arch.initDone <;> simp [needInit, hi]

/-- The effects with which a command of the port can start the sequencer. -/
inductive Starts (s : State) : Bool → Effect → Prop where
  | init : Starts s true (initEffect s.params)
  | setfreq (c : Chan) (v : FreqOperand) (h : s.arch.initDone = true) :
      Starts s false (setfreqEffect s.params c v s.arch)
  | setphase (c : Chan) (x : PhaseOperand) (h : s.arch.initDone = true) :
      Starts s false (setphaseEffect s.params c x s.arch)
  | setmode (m : Mode) (h : s.arch.initDone = true) : Starts s false (setmodeEffect s.params m s.arch)
  | setfsel (c : Chan) (h : s.arch.initDone = true) : Starts s false (setfselEffect s.params c s.arch)
  | setpsel (c : Chan) (h : s.arch.initDone = true) : Starts s false (setpselEffect s.params c s.arch)
  | reset (hold : Bool) (h : s.arch.initDone = true) : Starts s false (resetEffect s.params hold s.arch)

/-- Everything that performing an instruction can do: a rejection, an answer, a started command, or a word that the
chip takes. -/
inductive Performed (s : State) : Bool → State → Prop where
  | rejected (st : Status) (h : st ≠ .ok) (hi : st = .errNotInit → s.arch.initDone = false) :
      Performed s true (reject st s)
  | answered (v : BitVec 32) (h : s.arch.initDone = true) : Performed s true (answer v s)
  | started (cfg : Bool) (e : Effect) (h : Starts s cfg e) : Performed s true (startWrite cfg e s)
  | received (d : Dev) : Performed s false { s with dev := d }

/-- Performing an instruction always answers a next state, one of the four kinds. -/
theorem exec_performed (i : Instr) (s : State) : ∃ t, exec i s = .next t ∧ Performed s i.isCommand t := by
  cases i with
  | init => exact ⟨_, rfl, .started _ _ .init⟩
  | setfreq c v =>
    rcases withChan_cases c s fun ch => .next (startWrite false (setfreqEffect s.params ch v s.arch) s) with
      ⟨_, h⟩ | ⟨_, _, h0, h⟩ | ⟨ch, _, h1, h⟩
    · exact ⟨_, h, .rejected _ (by decide) (by simp)⟩
    · exact ⟨_, h, .rejected _ (by decide) fun _ => h0⟩
    · exact ⟨_, h, .started _ _ (.setfreq ch v h1)⟩
  | getfreq c =>
    rcases withChan_cases c s fun ch => .next (answer (s.arch.chan ch).freqUser s) with
      ⟨_, h⟩ | ⟨_, _, h0, h⟩ | ⟨ch, _, h1, h⟩
    · exact ⟨_, h, .rejected _ (by decide) (by simp)⟩
    · exact ⟨_, h, .rejected _ (by decide) fun _ => h0⟩
    · exact ⟨_, h, .answered _ h1⟩
  | setphase c x =>
    rcases withChan_cases c s fun ch => .next (startWrite false (setphaseEffect s.params ch x s.arch) s) with
      ⟨_, h⟩ | ⟨_, _, h0, h⟩ | ⟨ch, _, h1, h⟩
    · exact ⟨_, h, .rejected _ (by decide) (by simp)⟩
    · exact ⟨_, h, .rejected _ (by decide) fun _ => h0⟩
    · exact ⟨_, h, .started _ _ (.setphase ch x h1)⟩
  | getphase c =>
    rcases withChan_cases c s fun ch => .next (answer (phaseValue (s.arch.chan ch).phaseUser) s) with
      ⟨_, h⟩ | ⟨_, _, h0, h⟩ | ⟨ch, _, h1, h⟩
    · exact ⟨_, h, .rejected _ (by decide) (by simp)⟩
    · exact ⟨_, h, .rejected _ (by decide) fun _ => h0⟩
    · exact ⟨_, h, .answered _ h1⟩
  | setmode m =>
    rcases withMode_cases m s fun md => .next (startWrite false (setmodeEffect s.params md s.arch) s) with
      ⟨_, h⟩ | ⟨_, _, h0, h⟩ | ⟨md, _, h1, h⟩
    · exact ⟨_, h, .rejected _ (by decide) (by simp)⟩
    · exact ⟨_, h, .rejected _ (by decide) fun _ => h0⟩
    · exact ⟨_, h, .started _ _ (.setmode md h1)⟩
  | getmode =>
    rcases needInit_cases s (.next (answer (modeValue s.arch.modeCache) s)) with ⟨h0, h⟩ | ⟨h1, h⟩
    · exact ⟨_, h, .rejected _ (by decide) fun _ => h0⟩
    · exact ⟨_, h, .answered _ h1⟩
  | setfsel c =>
    rcases withChan_cases c s fun ch => .next (startWrite false (setfselEffect s.params ch s.arch) s) with
      ⟨_, h⟩ | ⟨_, _, h0, h⟩ | ⟨ch, _, h1, h⟩
    · exact ⟨_, h, .rejected _ (by decide) (by simp)⟩
    · exact ⟨_, h, .rejected _ (by decide) fun _ => h0⟩
    · exact ⟨_, h, .started _ _ (.setfsel ch h1)⟩
  | getfsel =>
    rcases needInit_cases s (.next (answer (chanValue s.arch.fselActive) s)) with ⟨h0, h⟩ | ⟨h1, h⟩
    · exact ⟨_, h, .rejected _ (by decide) fun _ => h0⟩
    · exact ⟨_, h, .answered _ h1⟩
  | setpsel c =>
    rcases withChan_cases c s fun ch => .next (startWrite false (setpselEffect s.params ch s.arch) s) with
      ⟨_, h⟩ | ⟨_, _, h0, h⟩ | ⟨ch, _, h1, h⟩
    · exact ⟨_, h, .rejected _ (by decide) (by simp)⟩
    · exact ⟨_, h, .rejected _ (by decide) fun _ => h0⟩
    · exact ⟨_, h, .started _ _ (.setpsel ch h1)⟩
  | getpsel =>
    rcases needInit_cases s (.next (answer (chanValue s.arch.pselActive) s)) with ⟨h0, h⟩ | ⟨h1, h⟩
    · exact ⟨_, h, .rejected _ (by decide) fun _ => h0⟩
    · exact ⟨_, h, .answered _ h1⟩
  | reset hold =>
    rcases needInit_cases s (.next (startWrite false (resetEffect s.params hold s.arch) s)) with ⟨h0, h⟩ | ⟨h1, h⟩
    · exact ⟨_, h, .rejected _ (by decide) fun _ => h0⟩
    · exact ⟨_, h, .started _ _ (.reset hold h1)⟩
  | w16Ctrl f => exact ⟨_, rfl, .received _⟩
  | w16Freq0 h => exact ⟨_, rfl, .received _⟩
  | w16Freq1 h => exact ⟨_, rfl, .received _⟩
  | w16Phase0 q => exact ⟨_, rfl, .received _⟩
  | w16Phase1 q => exact ⟨_, rfl, .received _⟩

/-- A command word decodes to a command. -/
theorem decodeCmd_isCommand {w : CmdWord} {i : Instr} (h : decodeCmd w = .ok i) : i.isCommand = true := by
  unfold decodeCmd needZero at h
  simp only at h
  split at h <;> (try split at h) <;> simp_all <;> subst h <;> rfl

/-- An emitted word decodes to one of the five emitted formats. -/
theorem decodeW16_not_isCommand {p : Params} {w : Word16} {i : Instr} (h : decodeW16 p w = .ok i) :
    i.isCommand = false := by
  unfold decodeW16 at h
  split at h
  · simp only [Decoded.ok.injEq] at h; subst h; rfl
  split at h
  · simp only [Decoded.ok.injEq] at h; subst h; rfl
  split at h
  · simp only [Decoded.ok.injEq] at h; subst h; rfl
  split at h
  · simp only [Decoded.ok.injEq] at h; subst h; rfl
  split at h
  · simp only [Decoded.ok.injEq] at h; subst h; rfl
  · simp at h

/-- What the acceptance of a word can do: a rejection, an answer, or a started command. -/
theorem accept_performed (w : CmdWord) (s : State) : ∃ t, accept w s = .next t ∧ Performed s true t := by
  unfold accept
  cases hd : decode s.params (.cmd40 w) with
  | ok i =>
    obtain ⟨t, h, hp⟩ := exec_performed i s
    rw [decodeCmd_isCommand hd] at hp
    exact ⟨t, h, hp⟩
  | invalid why => exact ⟨_, rfl, .rejected _ (by decide) (by simp)⟩

/-- Whatever bytes the chip has been sent, taking them changes the receiver alone. -/
theorem deliver_received (bytes : List Byte) (s : State) : ∃ d, deliver bytes s = .next { s with dev := d } := by
  unfold deliver
  split
  · rename_i hi lo
    cases hd : decode s.params (.w16 (wordOfBytes hi lo)) with
    | ok i =>
      obtain ⟨t, h, hp⟩ := exec_performed i s
      rw [decodeW16_not_isCommand hd] at hp
      cases hp with
      | received d => exact ⟨d, h⟩
    | invalid why => exact ⟨_, rfl⟩
  · exact ⟨_, rfl⟩

/-- The end of a frame: the chip takes the bytes, the sequencer advances. -/
theorem stepFrameEnd_eq (s : State) :
    ∃ d, deliver s.rxBytes (doEndFrame s) = .next { doEndFrame s with dev := d }
      ∧ stepFrameEnd s = .next (advance { doEndFrame s with dev := d }) := by
  obtain ⟨d, h⟩ := deliver_received s.rxBytes (doEndFrame s)
  exact ⟨d, h, by unfold stepFrameEnd; rw [h]⟩

/-- The bytes of a word, put together again. -/
@[simp] theorem wordOfBytes_bytes (w : Word16) : wordOfBytes (highByte w) (lowByte w) = w := by
  apply word16_ext
  intro n hn
  simp only [wordOfBytes, highByte, lowByte, BitVec.getLsbD_append, BitVec.getLsbD_extractLsb']
  by_cases h : n < 8
  · simp [h]
  · have : n - 8 < 8 := by omega
    simp [h, this, show 8 + (n - 8) = n by omega]

/-- The receiver's fault flag is sticky (20_memory.md R57). -/
theorem receive_fault_sticky (p : Params) (w : Word16) (d : Dev) (h : d.fault = true) :
    (receive p w d).fault = true := by
  have hf : ∀ c x, (receiveFreq p c x d).fault = true := by
    intro c x
    unfold receiveFreq
    split
    · split
      · simpa using h
      · split
        · simpa using h
        · rfl
    · rfl
  unfold receive
  split
  · simp [receiveControl, h]
  split
  · exact hf _ _
  split
  · exact hf _ _
  · simp [receivePhase, h]

theorem receiveAll_fault_sticky (p : Params) (ws : List Word16) (d : Dev) (h : d.fault = true) :
    (receiveAll p ws d).fault = true := by
  induction ws generalizing d with
  | nil => exact h
  | cons w ws ih => exact ih _ (receive_fault_sticky p w d h)

@[simp] theorem receiveAll_append (p : Params) (xs ys : List Word16) (d : Dev) :
    receiveAll p (xs ++ ys) d = receiveAll p ys (receiveAll p xs d) := by
  induction xs generalizing d with
  | nil => rfl
  | cons w ws ih => exact ih _

end Sys2Proof.Machine
end

