-- ==== Sys2Proof/Laws/PerInstr.lean ====
section
/-! SUPPORT. Laws made for each instruction as syntax: the encoding of an instruction lies in the row of the encoding tables that bears its mnemonic (30_encoding.md R78). -/

namespace Sys2Proof.Laws

open Sys2Proof

/-- A command word, one bit at a time. -/
theorem cmdWordOf_getLsbD (op arg : BitVec 4) (val : BitVec 32) (n : Nat) :
    (cmdWordOf op arg val).getLsbD n =
      if n < 32 then val.getLsbD n else if n < 36 then arg.getLsbD (n - 32) else op.getLsbD (n - 36) := by
  unfold cmdWordOf
  simp only [BitVec.getLsbD_append]
  by_cases h1 : n < 32
  · simp [h1]
  · by_cases h2 : n < 36
    · simp [h1, h2, show n - 32 < 4 by omega]
    · simp [h1, h2, show ¬n - 32 < 4 by omega, show n - 32 - 4 = n - 36 by omega]

/-- The fields of a command word put together again. -/
@[simp] theorem cmdOp_cmdWordOf (op arg : BitVec 4) (val : BitVec 32) : cmdOp (cmdWordOf op arg val) = op := by
  apply BitVec.eq_of_getLsbD_eq
  intro n hn
  simp [cmdOp, cmdWordOf_getLsbD, hn, show ¬36 + n < 32 by omega]

@[simp] theorem cmdArg_cmdWordOf (op arg : BitVec 4) (val : BitVec 32) : cmdArg (cmdWordOf op arg val) = arg := by
  apply BitVec.eq_of_getLsbD_eq
  intro n hn
  simp [cmdArg, cmdWordOf_getLsbD, hn, show 32 + n < 36 by omega]

@[simp] theorem cmdVal_cmdWordOf (op arg : BitVec 4) (val : BitVec 32) : cmdVal (cmdWordOf op arg val) = val := by
  apply BitVec.eq_of_getLsbD_eq
  intro n hn
  simp [cmdVal, cmdWordOf_getLsbD, hn]

/-- A command word is made of its fields. -/
theorem cmdWordOf_fields (w : CmdWord) : cmdWordOf (cmdOp w) (cmdArg w) (cmdVal w) = w := by
  apply BitVec.eq_of_getLsbD_eq
  intro n hn
  rw [cmdWordOf_getLsbD]
  by_cases h1 : n < 32
  · simp [cmdVal, h1]
  · by_cases h2 : n < 36
    · simp [cmdArg, h1, h2, show n - 32 < 4 by omega, show 32 + (n - 32) = n by omega]
    · simp [cmdOp, h1, h2, show n - 36 < 4 by omega, show 36 + (n - 36) = n by omega]

end Sys2Proof.Laws

namespace Sys2Proof.Laws.RowMatch

open Sys2Proof

/-- The encoding of the instruction, default parameters, is covered by the table row with its mnemonic. -/
def Statement (i : Instr) : Prop :=
  match encode Params.default i with
  | .cmd40 w => ∃ r ∈ cmdTable, r.mnemonic = i.mnemonic ∧ r.covers w = true
  | .w16 w => ∃ r ∈ w16Table, r.mnemonic = i.mnemonic ∧ r.covers w = true

theorem init : Statement .init :=
  ⟨⟨"INIT", 0x0000000000#40, 0xFFFFFFFFFF#40⟩, by simp [cmdTable], rfl, by decide⟩

/-- A command with a free `ARG` and `VAL` zero is covered by a row that masks `ARG` out. -/
theorem covers_arg (m : String) (op arg : BitVec 4) :
    (EncRow.mk m (cmdWordOf op 0#4 0#32) 0xF0FFFFFFFF#40).covers (cmdWordOf op arg 0#32) = true := by
  simp only [EncRow.covers, beq_iff_eq]
  revert op arg; decide

theorem setfreq (c : BitVec 4) (v : FreqOperand) : Statement (.setfreq c v) := by
  refine ⟨⟨"SETFREQ", 0x1000000000#40, 0xF000000000#40⟩, by simp [cmdTable], rfl, ?_⟩
  simp only [EncRow.covers, beq_iff_eq]
  apply BitVec.eq_of_getLsbD_eq
  intro n hn
  rw [BitVec.getLsbD_and, cmdWordOf_getLsbD]
  by_cases h : n < 36
  · have : (0xF000000000#40).getLsbD n = false ∧ (0x1000000000#40).getLsbD n = false := by
      revert h; revert n; decide
    simp [this]
  · rw [if_neg (by omega), if_neg h]
    revert h; revert n; decide

theorem getfreq (c : BitVec 4) : Statement (.getfreq c) :=
  ⟨⟨"GETFREQ", 0x2000000000#40, 0xF0FFFFFFFF#40⟩, by simp [cmdTable], rfl, covers_arg _ 0x2#4 c⟩

theorem setphase (c : BitVec 4) (ph : PhaseOperand) : Statement (.setphase c ph) := by
  refine ⟨⟨"SETPHASE", 0x3000000000#40, 0xF0FFFF0000#40⟩, by simp [cmdTable], rfl, ?_⟩
  simp only [EncRow.covers, beq_iff_eq]
  apply BitVec.eq_of_getLsbD_eq
  intro n hn
  rw [BitVec.getLsbD_and, cmdWordOf_getLsbD, BitVec.getLsbD_setWidth]
  by_cases h : n < 16 ∨ (32 ≤ n ∧ n < 36)
  · have : (0xF0FFFF0000#40).getLsbD n = false ∧ (0x3000000000#40).getLsbD n = false := by
      revert h; revert n; decide
    simp [this]
  · by_cases h2 : n < 32
    · have h3 : ph.getLsbD n = false := BitVec.getLsbD_of_ge _ _ (by omega)
      have : (0x3000000000#40).getLsbD n = false := by clear h h3; revert h2; revert n; decide
      simp [h2, h3, this]
    · rw [if_neg h2, if_neg (by omega)]
      revert h h2; revert n; decide

theorem getphase (c : BitVec 4) : Statement (.getphase c) :=
  ⟨⟨"GETPHASE", 0x4000000000#40, 0xF0FFFFFFFF#40⟩, by simp [cmdTable], rfl, covers_arg _ 0x4#4 c⟩

theorem setmode (m : BitVec 4) : Statement (.setmode m) :=
  ⟨⟨"SETMODE", 0x5000000000#40, 0xF0FFFFFFFF#40⟩, by simp [cmdTable], rfl, covers_arg _ 0x5#4 m⟩

theorem getmode : Statement .getmode :=
  ⟨⟨"GETMODE", 0x6000000000#40, 0xFFFFFFFFFF#40⟩, by simp [cmdTable], rfl, by decide⟩

theorem setfsel (c : BitVec 4) : Statement (.setfsel c) :=
  ⟨⟨"SETFSEL", 0x7000000000#40, 0xF0FFFFFFFF#40⟩, by simp [cmdTable], rfl, covers_arg _ 0x7#4 c⟩

theorem getfsel : Statement .getfsel :=
  ⟨⟨"GETFSEL", 0x8000000000#40, 0xFFFFFFFFFF#40⟩, by simp [cmdTable], rfl, by decide⟩

theorem setpsel (c : BitVec 4) : Statement (.setpsel c) :=
  ⟨⟨"SETPSEL", 0x9000000000#40, 0xF0FFFFFFFF#40⟩, by simp [cmdTable], rfl, covers_arg _ 0x9#4 c⟩

theorem getpsel : Statement .getpsel :=
  ⟨⟨"GETPSEL", 0xA000000000#40, 0xFFFFFFFFFF#40⟩, by simp [cmdTable], rfl, by decide⟩

theorem reset (hold : Bool) : Statement (.reset hold) :=
  ⟨⟨"RESET", 0xB000000000#40, 0xFEFFFFFFFF#40⟩, by simp [cmdTable], rfl, by cases hold <;> decide⟩

theorem w16Ctrl (f : CtrlFields) : Statement (.w16Ctrl f) := by
  refine ⟨⟨"W16.CTRL", 0x2000#16, 0xF215#16⟩, by simp [w16Table], rfl, ?_⟩
  obtain ⟨a, b, c, d, e, g, h, i⟩ := f
  revert a b c d e g h i
  decide

theorem w16Freq0 (h : Half) : Statement (.w16Freq0 h) := by
  refine ⟨⟨"W16.FREQ0", 0x4000#16, 0xC000#16⟩, by simp [w16Table], rfl, ?_⟩
  simp only [EncRow.covers, beq_iff_eq, freqHalfWord]
  apply word16_ext
  intro n hn
  rw [BitVec.getLsbD_and, BitVec.getLsbD_or, BitVec.getLsbD_setWidth]
  by_cases h1 : n < 14
  · have : (0xC000#16).getLsbD n = false ∧ (0x4000#16).getLsbD n = false := by revert h1; revert n; decide
    simp [this]
  · rw [BitVec.getLsbD_of_ge h n (by omega)]
    revert h1; revert n; decide +revert

theorem w16Freq1 (h : Half) : Statement (.w16Freq1 h) := by
  refine ⟨⟨"W16.FREQ1", 0x8000#16, 0xC000#16⟩, by simp [w16Table], rfl, ?_⟩
  simp only [EncRow.covers, beq_iff_eq, freqHalfWord]
  apply word16_ext
  intro n hn
  rw [BitVec.getLsbD_and, BitVec.getLsbD_or, BitVec.getLsbD_setWidth]
  by_cases h1 : n < 14
  · have : (0xC000#16).getLsbD n = false ∧ (0x8000#16).getLsbD n = false := by revert h1; revert n; decide
    simp [this]
  · rw [BitVec.getLsbD_of_ge h n (by omega)]
    revert h1; revert n; decide +revert

theorem w16Phase0 (q : PhaseWord) : Statement (.w16Phase0 q) := by
  refine ⟨⟨"W16.PHASE0", 0xC000#16, 0xF000#16⟩, by simp [w16Table], rfl, ?_⟩
  simp only [EncRow.covers, beq_iff_eq, phWord]
  apply word16_ext
  intro n hn
  rw [BitVec.getLsbD_and, BitVec.getLsbD_or, BitVec.getLsbD_setWidth]
  by_cases h1 : n < 12
  · have : (0xF000#16).getLsbD n = false ∧ (0xC000#16).getLsbD n = false := by revert h1; revert n; decide
    simp [this]
  · rw [BitVec.getLsbD_of_ge q n (by omega)]
    revert h1; revert n; decide +revert

theorem w16Phase1 (q : PhaseWord) : Statement (.w16Phase1 q) := by
  refine ⟨⟨"W16.PHASE1", 0xE000#16, 0xF000#16⟩, by simp [w16Table], rfl, ?_⟩
  simp only [EncRow.covers, beq_iff_eq, phWord]
  apply word16_ext
  intro n hn
  rw [BitVec.getLsbD_and, BitVec.getLsbD_or, BitVec.getLsbD_setWidth]
  by_cases h1 : n < 12
  · have : (0xF000#16).getLsbD n = false ∧ (0xE000#16).getLsbD n = false := by revert h1; revert n; decide
    simp [this]
  · rw [BitVec.getLsbD_of_ge q n (by omega)]
    revert h1; revert n; decide +revert

end Sys2Proof.Laws.RowMatch
end

