-- ==== Sys2Proof/Laws/Step.lean ====
section
/-! SUPPORT. What a step can do, said once; runs. -/

namespace Sys2Proof.Machine

open Sys2Proof

/-- What the completion of the outstanding call can do (42_sequencer.md R143), one case for each phase. -/
inductive Completed (s : State) : State → Prop where
  | configured (h : s.seq.ph = .cfg) : Completed s (setPhase .frameBegin (doConfigure s))
  | begun (h : s.seq.ph = .frameBegin) : Completed s (setPhase .hi (doBeginFrame s))
  | sentHigh (w : Word16) (h : s.seq.ph = .hi) (hw : currentWord s = some w) :
      Completed s (setPhase .lo (doTransferByte (highByte w) s))
  | sentLow (w : Word16) (h : s.seq.ph = .lo) (hw : currentWord s = some w) :
      Completed s (setPhase .frameEnd (doTransferByte (lowByte w) s))
  | ended (d : Dev) (h : s.seq.ph = .frameEnd)
      (hd : deliver s.rxBytes (doEndFrame s) = .next { doEndFrame s with dev := d }) :
      Completed s (advance { doEndFrame s with dev := d })

/-- A completed call is one of the cases, or the position of the sequencer is none of R25's. -/
theorem completeCall_cases (s : State) :
    (∃ t, completeCall s = .next t ∧ Completed s t)
    ∨ (completeCall s = .fault .seqPosition
        ∧ (s.seq.ph = .idle ∨ ((s.seq.ph = .hi ∨ s.seq.ph = .lo) ∧ currentWord s = none))) := by
  unfold completeCall
  cases h : s.seq.ph with
  | idle => simp
  | cfg => exact Or.inl ⟨_, rfl, .configured h⟩
  | frameBegin => exact Or.inl ⟨_, rfl, .begun h⟩
  | hi =>
    cases hw : currentWord s with
    | none => simp
    | some w => exact Or.inl ⟨_, rfl, .sentHigh w h hw⟩
  | lo =>
    cases hw : currentWord s with
    | none => simp
    | some w => exact Or.inl ⟨_, rfl, .sentLow w h hw⟩
  | frameEnd =>
    obtain ⟨d, hd, he⟩ := stepFrameEnd_eq s
    exact Or.inl ⟨_, he, .ended d h hd⟩

/-- What a step that answers a next state can have done. -/
inductive Stepped (s : State) : State → Prop where
  /-- Idle, no command on the port. -/
  | waited (hb : s.busy = false) (hc : s.caller = []) : Stepped s { s with rsp := none }
  /-- Idle, the command on the port accepted. -/
  | accepted (w : CmdWord) (rest : List CmdWord) (t : State) (hb : s.busy = false) (hc : s.caller = w :: rest)
      (ha : accept w { s with rsp := none, caller := rest } = .next t)
      (hp : Performed { s with rsp := none, caller := rest } true t) : Stepped s t
  /-- Busy, the call does not complete in this step. -/
  | served (sc : List Reply) (hb : s.busy = true) (hs : s.script ≠ []) :
      Stepped s { s with rsp := none, script := sc }
  /-- Busy, the call completes. -/
  | called (sc : List Reply) (t : State) (hb : s.busy = true) (hc : sc <:+ s.script)
      (hr : completeCall { s with rsp := none, script := sc } = .next t)
      (hp : Completed { s with rsp := none, script := sc } t) : Stepped s t

/-- A step that answers a next state did one of the four things. -/
theorem step_stepped {s t : State} (h : step s = .next t) : Stepped s t := by
  unfold step microStep at h
  cases hb : s.busy with
  | false =>
    simp only [hb, Bool.false_eq_true, if_false] at h
    unfold acceptNext at h
    cases hc : s.caller with
    | nil =>
      simp only [clearRsp, hc, Host.Outcome.next.injEq] at h
      subst h; rw [← hc]; exact .waited hb hc
    | cons w rest =>
      simp only [clearRsp, hc] at h
      obtain ⟨t', h', hp⟩ := accept_performed w { s with rsp := none, caller := rest }
      have : t = t' := by
        have := h.symm.trans h'
        simpa using this
      subst this
      exact .accepted w rest t hb hc h' hp
  | true =>
    simp only [hb, if_true] at h
    have key : ∀ sc, sc <:+ s.script → completeCall { s with rsp := none, script := sc } = .next t → Stepped s t := by
      intro sc hsc hcall
      rcases completeCall_cases { s with rsp := none, script := sc } with ⟨t', h', hp⟩ | ⟨h', _⟩
      · have : t = t' := by
          have := hcall.symm.trans h'
          simpa using this
        subst this
        exact .called sc t hb hsc h' hp
      · exact absurd (hcall.symm.trans h') (by simp)
    unfold serve at h
    rcases hs : s.script with _ | ⟨_ | _, rest⟩
    · simp only [clearRsp, hs] at h
      exact key [] (by simp) (by simpa [hs] using h)
    · rename_i n b
      cases n with
      | zero =>
        simp only [clearRsp, hs] at h
        exact key rest (hs ▸ List.suffix_cons _ _) h
      | succ n =>
        simp only [clearRsp, hs, Host.Outcome.next.injEq] at h
        subst h
        exact .served _ hb (by simp [hs])
    · simp only [clearRsp, hs, Host.Outcome.next.injEq] at h
      subst h
      rw [← hs]
      exact .served _ hb (by simp [hs])

/-! Runs. -/

@[simp] theorem run_zero (s : State) : run 0 s = .next s := rfl

theorem run_succ (k : Nat) (s : State) :
    run (k + 1) s = match step s with
      | .next t => run k t
      | .fault r => .fault r
      | .refused r => .refused r := by
  cases h : step s <;> simp only [run, Host.Core.run] <;>
    rw [show Sys2Proof.core.step s = _ from h] <;> rfl

theorem run_succ_of_next {k : Nat} {s t : State} (h : step s = .next t) : run (k + 1) s = run k t := by
  rw [run_succ, h]

theorem run_add {j k : Nat} {s t : State} (h : run j s = .next t) : run (j + k) s = run k t := by
  induction j generalizing s with
  | zero =>
    simp only [run_zero, Host.Outcome.next.injEq] at h
    subst h; simp
  | succ j ih =>
    rw [run_succ] at h
    cases hs : step s with
    | next u =>
      rw [hs] at h
      rw [show j + 1 + k = (j + k) + 1 by omega, run_succ_of_next hs]
      exact ih h
    | fault r => rw [hs] at h; simp at h
    | refused r => rw [hs] at h; simp at h

/-- An invariant that every step keeps holds after every run (the induction, once). -/
theorem run_keeps {P : State → Prop} (hstep : ∀ s t, P s → step s = .next t → P t) {k : Nat} {s t : State}
    (hs : P s) (h : run k s = .next t) : P t := by
  induction k generalizing s with
  | zero =>
    simp only [run_zero, Host.Outcome.next.injEq] at h
    exact h ▸ hs
  | succ k ih =>
    rw [run_succ] at h
    cases hu : step s with
    | next u => rw [hu] at h; exact ih (hstep s u hs hu) h
    | fault r => rw [hu] at h; simp at h
    | refused r => rw [hu] at h; simp at h

end Sys2Proof.Machine
end

