-- ==== Sys2Proof/Tests/Slice0.lean ====
section
/-! SUPPORT. Tests: ill-formed terms refused, every constructor's word decoded, one small step for each instruction with the values of 95_test_vectors.md, and for each obligation with hypotheses a witness that meets them. -/

namespace Sys2Proof.Tests

open Sys2Proof Sys2Proof.Machine

/-! ## Well-formedness: an ill-formed term for each check (60_exceptions.md R152 (f) and (g)) -/

theorem test_wf_setfreq_channel : (Instr.setfreq 2#4 128#32).wellFormed = false := by decide
theorem test_wf_getfreq_channel : (Instr.getfreq 15#4).wellFormed = false := by decide
theorem test_wf_setphase_channel : (Instr.setphase 3#4 0#16).wellFormed = false := by decide
theorem test_wf_getphase_channel : (Instr.getphase 2#4).wellFormed = false := by decide
theorem test_wf_setmode_mode : (Instr.setmode 5#4).wellFormed = false := by decide
theorem test_wf_setfsel_channel : (Instr.setfsel 2#4).wellFormed = false := by decide
theorem test_wf_setpsel_channel : (Instr.setpsel 8#4).wellFormed = false := by decide
theorem test_wf_boundary_accepted :
    (Instr.setfreq 1#4 0#32).wellFormed = true ∧ (Instr.setmode 4#4).wellFormed = true := by decide

/-- The parameter conditions refuse: two fields at one position, a bad selector, a mode table that is not injective,
no clock, a default frequency out of range. -/
theorem test_wf_params :
    { Params.default with bit := { Params.default.bit with hlb := 13 } }.wf = false
    ∧ { Params.default with sel := { Params.default.sel with freq1 := 0x4000#16 } }.wf = false
    ∧ { Params.default with modeTable := { Params.default.modeTable with off := ⟨false, false, false, false, false⟩ } }.wf
        = false
    ∧ { Params.default with fMaster := 0 }.wf = false
    ∧ { Params.default with defaultFreq := 3199999995#32 }.wf = false := by decide

/-! ## Decoding: the word of every constructor, written from 30_encoding.md R62, R70 to R72, R78 -/

/-- `OP = 0000`, `ARG = 0000`, `VAL = 0`. -/
theorem test_decode_init : decodeCmd (0b0000#4 ++ 0b0000#4 ++ 0x00000000#32) = .ok .init := by decide
/-- `SETFREQ 0, 1000`: `OP = 0001`, `VAL = 1000 * 128` (R76). -/
theorem test_decode_setfreq : decodeCmd (0b0001#4 ++ 0b0000#4 ++ 0x0001F400#32) = .ok (.setfreq 0#4 128000#32) := by decide
theorem test_decode_getfreq : decodeCmd (0b0010#4 ++ 0b0001#4 ++ 0x00000000#32) = .ok (.getfreq 1#4) := by decide
/-- `SETPHASE 1, 900`: `P = 900 * 16` in `VAL[15:0]`. -/
theorem test_decode_setphase : decodeCmd (0b0011#4 ++ 0b0001#4 ++ 0x00003840#32) = .ok (.setphase 1#4 14400#16) := by decide
theorem test_decode_getphase : decodeCmd (0b0100#4 ++ 0b0001#4 ++ 0x00000000#32) = .ok (.getphase 1#4) := by decide
theorem test_decode_setmode : decodeCmd (0b0101#4 ++ 0b0100#4 ++ 0x00000000#32) = .ok (.setmode 4#4) := by decide
theorem test_decode_getmode : decodeCmd (0b0110#4 ++ 0b0000#4 ++ 0x00000000#32) = .ok .getmode := by decide
theorem test_decode_setfsel : decodeCmd (0b0111#4 ++ 0b0001#4 ++ 0x00000000#32) = .ok (.setfsel 1#4) := by decide
theorem test_decode_getfsel : decodeCmd (0b1000#4 ++ 0b0000#4 ++ 0x00000000#32) = .ok .getfsel := by decide
theorem test_decode_setpsel : decodeCmd (0b1001#4 ++ 0b0001#4 ++ 0x00000000#32) = .ok (.setpsel 1#4) := by decide
theorem test_decode_getpsel : decodeCmd (0b1010#4 ++ 0b0000#4 ++ 0x00000000#32) = .ok .getpsel := by decide
theorem test_decode_reset :
    decodeCmd (0b1011#4 ++ 0b0001#4 ++ 0x00000000#32) = .ok (.reset true)
    ∧ decodeCmd (0b1011#4 ++ 0b0000#4 ++ 0x00000000#32) = .ok (.reset false) := by decide
/-- `00 B28 HLB F P 0 R S s O 0 D 0 M 0` with F, P, R, O, D set (R70). -/
theorem test_decode_w16Ctrl :
    decodeW16 Params.default 0b0010110100101000#16
      = .ok (.w16Ctrl { fselect := true, pselect := true, reset := true, sleep1 := false, sleep12 := false,
                        opbiten := true, div2 := true, mode := false }) := by decide
/-- The other three fields: the two sleep bits and MODE (R70). -/
theorem test_decode_w16Ctrl_other :
    decodeW16 Params.default 0b0010000011000010#16
      = .ok (.w16Ctrl { fselect := false, pselect := false, reset := false, sleep1 := true, sleep12 := true,
                        opbiten := false, div2 := false, mode := true }) := by decide
/-- `01`, 14 data bits (R71). -/
theorem test_decode_w16Freq0 : decodeW16 Params.default 0b0110100111110001#16 = .ok (.w16Freq0 0x29F1#14) := by decide
/-- `10`, 14 data bits (R71). -/
theorem test_decode_w16Freq1 : decodeW16 Params.default 0b1000001010001111#16 = .ok (.w16Freq1 0x028F#14) := by decide
/-- `110`, `0`, 12 data bits (R72). -/
theorem test_decode_w16Phase0 : decodeW16 Params.default 0b1100000001100110#16 = .ok (.w16Phase0 0x066#12) := by decide
/-- `111`, `0`, 12 data bits (R72). -/
theorem test_decode_w16Phase1 : decodeW16 Params.default 0b1110010000000000#16 = .ok (.w16Phase1 0x400#12) := by decide

/-- Vectors E1 of 95_test_vectors.md: what does not decode, by name. -/
theorem test_decode_refused :
    decodeCmd 0xC000000000#40 = .invalid .reservedOp ∧ decodeCmd 0xF0FFFFFFFF#40 = .invalid .reservedOp
    ∧ decodeCmd 0x0100000000#40 = .invalid .mustBeZero ∧ decodeCmd 0x0000000001#40 = .invalid .mustBeZero
    ∧ decodeCmd 0x2000000001#40 = .invalid .mustBeZero ∧ decodeCmd 0x3000010000#40 = .invalid .mustBeZero
    ∧ decodeCmd 0x5100000001#40 = .invalid .mustBeZero ∧ decodeCmd 0x6100000000#40 = .invalid .mustBeZero
    ∧ decodeCmd 0x8000000001#40 = .invalid .mustBeZero ∧ decodeCmd 0xB200000000#40 = .invalid .mustBeZero := by decide

/-- Words that the block never emits (30_encoding.md R75): an unnamed bit, HLB, B28 clear, bit 12 of a phase word. -/
theorem test_decode_not_emitted :
    decodeW16 Params.default 0x2200#16 = .invalid .notEmitted ∧ decodeW16 Params.default 0x3000#16 = .invalid .notEmitted
    ∧ decodeW16 Params.default 0x0000#16 = .invalid .notEmitted ∧ decodeW16 Params.default 0xD000#16 = .invalid .notEmitted := by
  decide

/-! ## A small state: the block after INIT, at rest, the chip coherent with it -/

/-- The architectural state that INIT leaves (10_state.md R31), default parameters. -/
def demoArch : Arch :=
  ⟨0x2000#16, ⟨128000#32, 0#16, 0x29F1#28, 0#12⟩, ⟨128000#32, 0#16, 0x29F1#28, 0#12⟩, .ch0, .ch0, .sine, true⟩

/-- The chip after INIT. -/
def demoDev : Dev :=
  ⟨some 0x2000#16, ⟨some 0x29F1#14, some 0#14, some 0#12⟩, ⟨some 0x29F1#14, some 0#14, some 0#12⟩, none, false⟩

/-- Words that bring a chip to `demoDev`. -/
def demoWords : List Word16 :=
  [0x2000#16, 0x69F1#16, 0x4000#16, 0x2000#16, 0xA9F1#16, 0x8000#16, 0xC000#16, 0xE000#16]

def demo : State :=
  { State.reset with arch := demoArch, frame := false, dev := demoDev, trace := framesOf demoWords }

/-- `demo` with a control word and words waiting on the port. -/
def demoWith (cw : Word16) (cmds : List CmdWord) : State :=
  { demo with arch := { demoArch with cw := cw }, caller := cmds }

/-- The state that SETMODE TRIANGLE leaves. -/
def demoTriangle : Arch := { demoArch with cw := 0x2002#16, modeCache := .triangle }

/-- SETMODE TRIANGLE half sent: the high byte of its word is with the chip, the low byte is due. -/
def demoRunning : State :=
  { demo with
    busy := true, seq := ⟨[0x2002#16], 0, .lo⟩, pending := some demoTriangle, frame := true
    rxBytes := [0x20#8], trace := framesOf demoWords ++ [.frameBegin, .byte 0x20#8] }

/-- The same command at its last call. -/
def demoEnding : State :=
  { demoRunning with
    seq := ⟨[0x2002#16], 0, .frameEnd⟩, rxBytes := [0x20#8, 0x02#8]
    trace := framesOf demoWords ++ [.frameBegin, .byte 0x20#8, .byte 0x02#8] }

/-- The next state of an outcome. -/
def after : Result → Option State
  | .next t => some t
  | _ => none

/-! ## One step for each instruction (values of 95_test_vectors.md) -/

/-- Vector I1: the fourteen words. -/
theorem test_init_words :
    (after (exec .init State.reset)).map (·.seq)
      = some ⟨[0x2000#16, 0x2100#16, 0x2100#16, 0x69F1#16, 0x4000#16, 0x2100#16, 0xA9F1#16, 0x8000#16, 0xC000#16,
               0xE000#16, 0x2000#16, 0x2000#16, 0x2000#16, 0x2000#16], 0, .cfg⟩ := by decide

/-- INIT again, from PARKED in mode Triangle: the old state is ignored (R111 (a)). -/
theorem test_init_again :
    (after (exec .init (demoWith 0x2D02#16 []))).map (·.pending) = some (some demoArch) := by decide

/-- Q1: 1 MHz on channel 1; the committed `CW` is sent first. -/
theorem test_setfreq_words :
    (after (exec (.setfreq 1#4 128000000#32) (demoWith 0x2100#16 []))).map (·.seq.words)
      = some [0x2100#16, 0x970A#16, 0x828F#16] := by decide

/-- Q1: an operand past the range is stored whole, its word wraps. -/
theorem test_setfreq_wraps :
    (after (exec (.setfreq 0#4 4294967295#32) demo)).map (fun t => t.pending.map (·.ch0))
      = some (some ⟨4294967295#32, 0#16, 0x5798EE2#28, 0#12⟩) := by decide

theorem test_getfreq_value :
    (after (exec (.getfreq 1#4) demo)).map (·.rsp) = some (some ⟨.ok, 0x0001F400#32⟩) := by decide

/-- Q2: 180 PIU rounds up to 205. -/
theorem test_setphase_word :
    (after (exec (.setphase 0#4 2880#16) demo)).map (·.seq.words) = some [0xC0CD#16] := by decide

/-- Q2: past a turn the word wraps, the operand stays. -/
theorem test_setphase_wraps :
    (after (exec (.setphase 1#4 65535#16) demo)).map (fun t => t.pending.map (·.ch1))
      = some (some ⟨128000#32, 65535#16, 0x29F1#28, 0x234#12⟩) := by decide

theorem test_getphase_value :
    (after (exec (.getphase 0#4) { demo with arch := { demoArch with ch0 := ⟨0#32, 0x3840#16, 0#28, 0#12⟩ } })).map (·.rsp)
      = some (some ⟨.ok, 0x00003840#32⟩) := by decide

/-- M1: from Square@MCLK, selects 1, held, to Off. -/
theorem test_setmode_word :
    (after (exec (.setmode 0#4) (demoWith 0x2D28#16 []))).map (·.seq.words) = some [0x2DC0#16] := by decide

/-- M1: mode 4 is Triangle, the last valid mode. -/
theorem test_setmode_last :
    (after (exec (.setmode 4#4) demo)).map (·.pending) = some (some demoTriangle) := by decide

theorem test_getmode_value :
    (after (exec .getmode demo)).map (·.rsp) = some (some ⟨.ok, 1#32⟩) := by decide

/-- R102: the answer comes from the cache, not from `CW`. -/
theorem test_getmode_cache :
    (after (exec .getmode (demoWith 0x2002#16 []))).map (·.rsp) = some (some ⟨.ok, 1#32⟩) := by decide

/-- S5: FSELECT moves, PSELECT stays. -/
theorem test_setfsel_word :
    (after (exec (.setfsel 1#4) (demoWith 0x2402#16 []))).map (·.seq.words) = some [0x2C02#16] := by decide

theorem test_getfsel_value :
    (after (exec .getfsel { demo with arch := { demoArch with fselActive := .ch1 } })).map (·.rsp)
      = some (some ⟨.ok, 1#32⟩) := by decide

/-- S5: PSELECT moves, FSELECT stays. -/
theorem test_setpsel_word :
    (after (exec (.setpsel 0#4) (demoWith 0x2C02#16 []))).map (·.seq.words) = some [0x2802#16] := by decide

theorem test_getpsel_value :
    (after (exec .getpsel { demo with arch := { demoArch with pselActive := .ch1 } })).map (·.rsp)
      = some (some ⟨.ok, 1#32⟩) := by decide

/-- P3: pulse from released. -/
theorem test_reset_pulse :
    (after (exec (.reset false) demo)).map (·.seq.words) = some [0x2100#16, 0x2000#16] := by decide

/-- P3: release of a held reset, in mode Square@MCLK. -/
theorem test_reset_release :
    (after (exec (.reset false) (demoWith 0x2128#16 []))).map (·.seq.words) = some [0x2028#16] := by decide

/-- W1: a control word inside a load raises the fault and is taken. -/
theorem test_w16Ctrl_inside_load :
    (after (exec (.w16Ctrl ⟨false, false, false, false, false, false, false, false⟩)
        { demo with dev := { demoDev with ctrl := some 0x2100#16, load := some .ch0 } })).map (·.dev)
      = some { demoDev with load := some .ch0, fault := true } := by decide

/-- W1: the first half of a load. -/
theorem test_w16Freq0_low_half :
    (after (exec (.w16Freq0 0x170A#14) demo)).map (·.dev)
      = some { demoDev with ch0 := ⟨some 0x170A#14, some 0#14, some 0#12⟩, load := some .ch0 } := by decide

/-- W1: a frequency word is the first word ever. -/
theorem test_w16Freq0_no_control :
    (after (exec (.w16Freq0 0x29F1#14) State.reset)).map (·.dev) = some { Dev.empty with fault := true } := by decide

/-- W1: the second half of a load. -/
theorem test_w16Freq1_high_half :
    (after (exec (.w16Freq1 0x28F#14) { demo with dev := { demoDev with load := some .ch1 } })).map (·.dev)
      = some { demoDev with ch1 := ⟨some 0x29F1#14, some 0x28F#14, some 0#12⟩ } := by decide

/-- W1: the second half addresses the other channel. -/
theorem test_w16Freq1_other_channel :
    (after (exec (.w16Freq1 0x29F1#14) { demo with dev := { demoDev with load := some .ch0 } })).map (·.dev)
      = some { demoDev with load := some .ch0, fault := true } := by decide

theorem test_w16Phase0_stored :
    (after (exec (.w16Phase0 102#12) State.reset)).map (·.dev)
      = some { Dev.empty with ch0 := ⟨none, none, some 102#12⟩ } := by decide

/-- W1: a phase word inside a load. -/
theorem test_w16Phase1_inside_load :
    (after (exec (.w16Phase1 1024#12) { demo with dev := { demoDev with load := some .ch0 } })).map (·.dev)
      = some { demoDev with ch1 := ⟨some 0x29F1#14, some 0#14, some 1024#12⟩, load := some .ch0, fault := true } := by
  decide

/-! ## Acceptance, rejection, the sequencer's steps, the placing of an instruction -/

/-- E1: the order of the checks. -/
theorem test_rejections :
    (after (step { State.reset with caller := [0x1200000080#40] })).map (·.rsp) = some (some ⟨.errInvalid, 0#32⟩)
    ∧ (after (step { State.reset with caller := [0x6000000000#40] })).map (·.rsp) = some (some ⟨.errNotInit, 0#32⟩)
    ∧ (after (step { demo with caller := [0xC000000000#40] })).map (·.rsp) = some (some ⟨.errInvalid, 0#32⟩) := by decide

/-- A command on the port of a busy block stays there (R134). -/
theorem test_busy_port_waits :
    (after (step { demoRunning with caller := [0x6000000000#40] })).map (fun t => (t.caller, t.rsp))
      = some ([0x6000000000#40], none) := by decide

/-- T1: the phase `LO` sends the low byte. -/
theorem test_step_low_byte : step demoRunning = .next demoEnding := by rfl

/-- T1: the last `endFrame()` commits and responds. -/
theorem test_step_last_call :
    (after (step demoEnding)).map (fun t => (t.arch, t.busy, t.seq)) = some (demoTriangle, false, Seq.atRest)
    ∧ (after (step demoEnding)).map (fun t => (t.frame, t.rsp, t.dev.ctrl))
      = some (false, some ⟨.ok, 0#32⟩, some 0x2002#16) := by decide

/-- A call that takes two steps: in the first nothing happens. -/
theorem test_step_waits :
    (after (step { demoRunning with script := [.completes 1 0xAB#8] })).map (fun t => (t.seq.ph, t.rxBytes, t.script))
      = some (.lo, [0x20#8], [.completes 0 0xAB#8]) := by decide

/-- The order of the two bytes on the wire (20_memory.md R44). -/
theorem test_byte_order : frameOf 0x69F1#16 = [.frameBegin, .byte 0x69#8, .byte 0xF1#8, .frameEnd] := by decide

/-- `withFetchWord` puts a command word on the port and an emitted word at the end of its frame. -/
theorem test_withFetchWord :
    (after (step (State.reset.withFetchWord 40 0x0000000000))).map (·.seq.ph) = some .cfg
    ∧ (after (step (State.reset.withFetchWord 16 0x2D28))).map (·.dev.ctrl) = some (some 0x2D28#16) := by decide

/-- A frame of one byte is no word: the reference receiver faults (log 10). -/
theorem test_short_frame_faults :
    (after (deliver [0x20#8] demo)).map (·.dev.fault) = some true := by decide

/-- W1: a control word with B28 clear is taken, the frequency word after it faults. -/
theorem test_receiver_b28_clear :
    receiveAll Params.default [0x0000#16, 0x69F1#16] Dev.empty = { Dev.empty with ctrl := some 0x0000#16, fault := true } := by
  decide

/-- Command level, K1: `RESET 1` of the worked vectors. -/
theorem test_perform_reset :
    perform Params.default demoArch 0xB100000000#40
      = ⟨false, [0x2100#16], ⟨.ok, 0#32⟩, { demoArch with cw := 0x2100#16 }⟩ := by decide

/-- Q1: the rows that tell rounding from truncation, and the first that wraps. -/
theorem test_quantizer_frequency :
    qf Params.default 128#32 = 11#28 ∧ qf Params.default 12800#32 = 1074#28 ∧ qf Params.default 3199999994#32 = 0xFFFFFFF#28
    ∧ qf Params.default 3199999995#32 = 0#28 := by decide

/-- Q2: rows around the corners. -/
theorem test_quantizer_phase :
    qp Params.default 7#16 = 0#12 ∧ qp Params.default 8#16 = 1#12 ∧ qp Params.default 5759#16 = 410#12
    ∧ qp Params.default 57592#16 = 4095#12 ∧ qp Params.default 57593#16 = 0#12 := by decide

/-- A tie, which only other parameters produce: 1/2 rounds up, down, to even. -/
theorem test_round_ties :
    roundDiv .halfUp 1 2 = 1 ∧ roundDiv .halfDown 1 2 = 0 ∧ roundDiv .halfEven 1 2 = 0 ∧ roundDiv .halfEven 3 2 = 2 := by
  decide

/-! ## Assembler (30_encoding.md R76, R77) -/

theorem test_assemble_line :
    parseLine "SETFREQ  0, 1000.5 ; comment".toList = .command (.setfreq 0 (.decimal 10005 1))
    ∧ assemble (.setfreq 0 (.decimal 10005 1)) = some (.setfreq 0#4 128064#32) := by decide

theorem test_assemble_errors :
    assemble (.setfreq 0 (.decimal 1 1)) = none ∧ assemble (.setphase 0 (.raw 65536)) = none
    ∧ assemble (.reset 2) = none ∧ parseLine "JUMP 0".toList = .error ∧ parseLine "  ; nothing".toList = .blank := by decide

theorem test_assemble_program :
    assembleProgram Params.default ["INIT".toList, "SETMODE TRIANGLE".toList, "".toList, "UNPARK".toList]
      = some [.cmd40 0x0000000000#40, .cmd40 0x5400000000#40, .cmd40 0xB000000000#40] := by decide

/-! ## The invariants on the small states -/

/-- The bits of a control word of the default layout, for every number. -/
theorem unnamed_clear {w : Word16} (h : ∀ n < 16, n ∉ Params.default.bit.toList → w.getLsbD n = false) :
    ∀ n, n ∉ Params.default.bit.toList → w.getLsbD n = false := by
  intro n hn
  by_cases hlt : n < 16
  · exact h n hlt hn
  · exact BitVec.getLsbD_of_ge w n (by omega)

theorem demoArch_inv : ArchInv Params.default demoArch where
  freqWord := fun c => by cases c <;> decide
  phaseWord := fun c => by cases c <;> decide
  fselMirror := by decide
  pselMirror := by decide
  b28Set := by decide
  modeCoherent := by decide
  hlbClear := by decide
  unnamedClear := unnamed_clear (by decide)

theorem demoTriangle_inv : ArchInv Params.default demoTriangle where
  freqWord := fun c => by cases c <;> decide
  phaseWord := fun c => by cases c <;> decide
  fselMirror := by decide
  pselMirror := by decide
  b28Set := by decide
  modeCoherent := by decide
  hlbClear := by decide
  unnamedClear := unnamed_clear (by decide)

/-- The small state with the reset held. -/
def demoParked : Arch := { demoArch with cw := 0x2100#16 }

theorem demoParked_inv : ArchInv Params.default demoParked where
  freqWord := fun c => by cases c <;> decide
  phaseWord := fun c => by cases c <;> decide
  fselMirror := by decide
  pselMirror := by decide
  b28Set := by decide
  modeCoherent := by decide
  hlbClear := by decide
  unnamedClear := unnamed_clear (by decide)

theorem demo_registers : RegisterInv demo where
  paramsWf := by decide
  committed := fun _ => demoArch_inv
  pendingOk := fun _ h => nomatch h

/-- The pending copy of the running command, which the state holds as `some demoTriangle`. -/
theorem demoRunning_pending {a : Arch} (h : demoRunning.pending = some a) : a = demoTriangle :=
  (Option.some.inj h).symm

theorem demoRunning_registers : RegisterInv demoRunning where
  paramsWf := by decide
  committed := fun _ => demoArch_inv
  pendingOk := fun a h => by
    rw [demoRunning_pending h]
    exact ⟨rfl, demoTriangle_inv⟩

theorem demoRunning_sequencer : SequencerInv demoRunning where
  atRest := by decide
  pendingHeld := by decide
  position := by decide
  cfgFirst := by decide
  framed := by decide
  unframed := by decide
  sent := fun _ _ w h => by
    have : w = 0x2002#16 := (Option.some.inj h).symm
    subst this
    decide

theorem demoRunning_chip : ChipInv demoRunning where
  noFaultNow := by decide
  beforeInit := by decide
  atRest := fun h => nomatch h
  running := fun _ a h => by
    rw [demoRunning_pending h]
    exact ⟨by decide, fun c => by cases c <;> decide, fun c => by cases c <;> decide, fun c => by cases c <;> decide,
      by decide, by decide⟩

theorem demoRunning_trace : TraceInv demoRunning :=
  ⟨⟨demoWords, some [0x20#8]⟩, by decide, by decide, by decide⟩

/-! ## Witnesses: for each obligation with hypotheses, a state and operands that meet all of them -/

theorem witness_DecodeInvertsEncode : Params.default.wf = true := by decide

theorem witness_EncodeInvertsDecode :
    Params.default.wf = true ∧ decode Params.default (.cmd40 0x310000FFFF#40) = .ok (.setphase 1#4 65535#16)
    ∧ decode Params.default (.w16 0xEFFF#16) = .ok (.w16Phase1 0xFFF#12) := by decide

theorem witness_StepRunsTheDecodedCommand :
    demo.busy = false ∧ (demoWith 0x2000#16 [0x5400000000#40, 0x6000000000#40]).caller = 0x5400000000#40 :: [0x6000000000#40]
    ∧ decode demo.params (.cmd40 0x5400000000#40) = .ok (.setmode 4#4) := by decide

theorem witness_StepRunsTheReceivedWord :
    demoEnding.busy = true ∧ demoEnding.script = [] ∧ demoEnding.seq.ph = .frameEnd
    ∧ demoEnding.rxBytes = [highByte 0x2002#16, lowByte 0x2002#16]
    ∧ decode demoEnding.params (.w16 0x2002#16)
        = .ok (.w16Ctrl ⟨false, false, false, false, false, false, false, true⟩) := by decide

theorem witness_IdleBlockWaits : demo.busy = false ∧ demo.caller = [] := by decide

/-- Each result of validation: both rejections and none, at the edges of the checks. -/
theorem witness_ValidationDecidesTheResponse :
    demo.busy = false
    ∧ validate false 0xC000000000#40 = some .errInvalid ∧ validate true 0xC000000000#40 = some .errInvalid
    ∧ validate false 0x1200000080#40 = some .errInvalid ∧ validate false 0x1100000080#40 = some .errNotInit
    ∧ validate true 0x5500000000#40 = some .errInvalid ∧ validate true 0x5400000000#40 = none
    ∧ validate false 0x0000000000#40 = none ∧ validate true 0xB100000000#40 = none := by decide

/-- Each clause of the must-be-zero rule, at its edge. -/
theorem witness_MustBeZeroBitsAreRejected :
    demo.busy = false
    ∧ ((cmdOp 0x0000000001#40).toNat ≤ 11 ∧ cmdOp 0x0000000001#40 ≠ 1#4 ∧ cmdOp 0x0000000001#40 ≠ 3#4
        ∧ cmdVal 0x0000000001#40 ≠ 0#32)
    ∧ ((cmdOp 0xB080000000#40).toNat ≤ 11 ∧ cmdOp 0xB080000000#40 ≠ 1#4 ∧ cmdOp 0xB080000000#40 ≠ 3#4
        ∧ cmdVal 0xB080000000#40 ≠ 0#32)
    ∧ (cmdOp 0x3000010000#40 = 3#4 ∧ (cmdVal 0x3000010000#40).extractLsb' 16 16 ≠ 0#16)
    ∧ (cmdOp 0x0100000000#40 = 0#4 ∧ cmdArg 0x0100000000#40 ≠ 0#4)
    ∧ (cmdOp 0xAF00000000#40 = 10#4 ∧ cmdArg 0xAF00000000#40 ≠ 0#4)
    ∧ (cmdOp 0xB200000000#40 = 11#4 ∧ (cmdArg 0xB200000000#40).extractLsb' 1 3 ≠ 0#3) := by decide

theorem witness_OutOfRangeOperandsAreRejected :
    (Instr.setfreq 2#4 0#32).wellFormed = false ∧ (Instr.setmode 5#4).wellFormed = false := by decide

theorem witness_CommandsBeforeInitAreRejected :
    State.reset.arch.initDone = false ∧ Instr.getmode.isCommand = true ∧ Instr.getmode ≠ .init
    ∧ Instr.getmode.wellFormed = true ∧ (Instr.setfreq 1#4 0#32).isCommand = true
    ∧ (Instr.setfreq 1#4 0#32).wellFormed = true := by decide

/-- The hypothesis `INIT_DONE = 1` of the statements of the setters and of the accessors: SetfreqStartsThreeWords,
SetphaseStartsOneWord, SetmodeStartsOneWord, SelectsStartOneWord, ResetHoldsReleasesOrPulses,
AccessorsAnswerTheStoredValue, ModeTransitionTable. RESET finds the reset held and not held. -/
theorem witness_InitDone :
    demo.arch.initDone = true
    ∧ demo.arch.cw.getLsbD demo.params.bit.reset = false
    ∧ (demoWith 0x2100#16 []).arch.initDone = true
    ∧ (demoWith 0x2100#16 []).arch.cw.getLsbD (demoWith 0x2100#16 []).params.bit.reset = true := by decide

theorem witness_EmittedFormatsRefineTheReceiver :
    demo.params.wf = true ∧ decode demo.params (.w16 0x9FFF#16) = .ok (.w16Freq1 0x1FFF#14) := by decide

theorem witness_WordListIsFramedAndCommitted :
    demo.params.wf = true ∧ demo.script = [] ∧ [0x2100#16, 0x2000#16] ≠ ([] : List Word16) := by decide

theorem demo_idle : idle demo := by unfold idle; decide

theorem witness_MicroStepsAgreeWithCommandLevel :
    (demoWith 0x2000#16 [0x10FFFFFFFF#40]).params.wf = true ∧ idle (demoWith 0x2000#16 [0x10FFFFFFFF#40])
    ∧ (demoWith 0x2000#16 [0x10FFFFFFFF#40]).script = []
    ∧ (demoWith 0x2000#16 [0x10FFFFFFFF#40]).caller = 0x10FFFFFFFF#40 :: [] :=
  ⟨by decide, demo_idle, rfl, rfl⟩

theorem witness_SlowTransportGivesTheSameResult :
    demo.params.wf = true ∧ idle { demo with script := [.completes 3 0xFF#8, .completes 0 0#8], caller := [0x7100000000#40] }
    ∧ allComplete [.completes 3 0xFF#8, .completes 0 0#8] = true :=
  ⟨by decide, demo_idle, by decide⟩

theorem witness_StuckCallWaitsForEver :
    ({ demoRunning with script := [.never] } : State).busy = true
    ∧ ({ demoRunning with script := [.never] } : State).script = .never :: [] := by decide

/-- Two transports that differ in a byte, and a run that ends in a next state. -/
theorem witness_ReturnedBytesDoNotMatter :
    eraseMiso [.completes 0 0xFF#8] = eraseMiso [.completes 0 0x00#8]
    ∧ run 1 { demoRunning with script := [.completes 0 0x00#8] } = .next demoEnding :=
  ⟨by decide, by rfl⟩

/-- The clause on faults: a state that no run reaches, `BUSY` 1 with the phase `IDLE`. -/
theorem witness_ReturnedBytesDoNotMatter_fault :
    eraseMiso [.completes 0 0xFF#8] = eraseMiso [.completes 0 0x00#8]
    ∧ run 1 { demoRunning with seq := Seq.atRest, script := [.completes 0 0x00#8] } = .fault .seqPosition :=
  ⟨by decide, by rfl⟩

/-- The state after the last call of `demoEnding`. -/
def demoFinished : State :=
  { demo with
    arch := demoTriangle, rsp := some ⟨.ok, 0#32⟩, rspLog := [⟨.ok, 0#32⟩]
    dev := { demoDev with ctrl := some 0x2002#16 }
    trace := framesOf demoWords ++ [.frameBegin, .byte 0x20#8, .byte 0x02#8, .frameEnd] }

/-- Both cases: the command goes on, the command ends. -/
theorem witness_StateChangesOnlyAtCommit :
    (demoRunning.busy = true ∧ step demoRunning = .next demoEnding)
    ∧ (demoEnding.busy = true ∧ step demoEnding = .next demoFinished) :=
  ⟨⟨rfl, by rfl⟩, rfl, by rfl⟩

theorem witness_ParametersNeverChange : step demoRunning = .next demoEnding := by rfl

theorem witness_SequencerInvariantIsKept : SequencerInv demoRunning ∧ step demoRunning = .next demoEnding :=
  ⟨demoRunning_sequencer, by rfl⟩

theorem witness_RegisterInvariantIsKept : RegisterInv demoRunning ∧ step demoRunning = .next demoEnding :=
  ⟨demoRunning_registers, by rfl⟩

theorem witness_ChipCoherenceIsKept :
    RegisterInv demoRunning ∧ SequencerInv demoRunning ∧ ChipInv demoRunning ∧ step demoRunning = .next demoEnding :=
  ⟨demoRunning_registers, demoRunning_sequencer, demoRunning_chip, by rfl⟩

theorem witness_TraceInvariantIsKept :
    demoRunning.params.wf = true ∧ SequencerInv demoRunning ∧ TraceInv demoRunning ∧ step demoRunning = .next demoEnding :=
  ⟨by decide, demoRunning_sequencer, demoRunning_trace, by rfl⟩

theorem witness_EveryStepHasANextState : SequencerInv demoRunning := demoRunning_sequencer

/-- For InvariantsHoldAtPowerUp and NoRunFromPowerUpFaultsTheChip: parameters other than the default that meet the
conditions. -/
theorem witness_PowerUpParameters :
    { Params.default with fMaster := 1, ties := .halfDown, bit := { Params.default.bit with hlb := 0 } }.wf = true := by
  decide

theorem witness_InitDoneIsNeverCleared :
    RegisterInv demoRunning ∧ demoRunning.arch.initDone = true ∧ step demoRunning = .next demoEnding :=
  ⟨demoRunning_registers, by decide, by rfl⟩

/-- For FrequencyQuantizerIsTheStatedFormula and PhaseQuantizerIsTheStatedFormula. -/
theorem witness_QuantizersAreTheStatedFormulas :
    0 < Params.default.fMaster ∧ 0 < Params.default.phaseDen ∧ Params.default.ties = .halfUp := by decide

/-- The edges of the ranges of FrequencyQuantizerIsAccurate and PhaseQuantizerIsAccurate. -/
theorem witness_QuantizersAreAccurate :
    (3199999994#32 : FreqOperand).toNat ≤ 3199999994 ∧ (0#32 : FreqOperand).toNat ≤ (4294967295#32 : FreqOperand).toNat
    ∧ (4294967295#32 : FreqOperand).toNat = (4294967294#32 : FreqOperand).toNat + 1
    ∧ (57592#16 : PhaseOperand).toNat ≤ 57592 ∧ (5759#16 : PhaseOperand).toNat < 5760
    ∧ (0#16 : PhaseOperand).toNat ≤ (65535#16 : PhaseOperand).toNat
    ∧ (65535#16 : PhaseOperand).toNat = (65534#16 : PhaseOperand).toNat + 1 := by decide

/-- A bit outside the five mode bits, and one beyond the word. -/
theorem witness_ApplyModeReplacesExactlyTheModeBits :
    Params.default.bit.wf = true
    ∧ 13 ∉ [Params.default.bit.opbiten, Params.default.bit.mode, Params.default.bit.div2, Params.default.bit.sleep1,
        Params.default.bit.sleep12]
    ∧ 16 ∉ [Params.default.bit.opbiten, Params.default.bit.mode, Params.default.bit.div2, Params.default.bit.sleep1,
        Params.default.bit.sleep12] := by decide

theorem witness_SelectAndResetWriteOneBit :
    Params.default.bit.wf = true ∧ (0x2000#16 : Word16).getLsbD (selBit Params.default .freq) = false
    ∧ (0x2800#16 : Word16).getLsbD (selBit Params.default .phase) = false
    ∧ 10 ≠ selBit Params.default .freq ∧ 11 ≠ selBit Params.default .phase ∧ 11 ≠ Params.default.bit.reset := by decide

/-- A command other than INIT: SETFREQ 0, 1000 started in the small state, with its words `CW`, low, high. -/
theorem witness_OnlyEmittedFormatsAreEmitted :
    RegisterInv demo ∧ demo.busy = false ∧ Instr.setfreq 0#4 128000#32 ≠ .init
    ∧ exec (.setfreq 0#4 128000#32) demo
        = .next (startWrite false (setfreqEffect Params.default .ch0 128000#32 demoArch) demo)
    ∧ (startWrite false (setfreqEffect Params.default .ch0 128000#32 demoArch) demo).busy = true
    ∧ 0x69F1#16 ∈ (startWrite false (setfreqEffect Params.default .ch0 128000#32 demoArch) demo).seq.words
    ∧ 0x2000#16 ∈ (startWrite false (setfreqEffect Params.default .ch0 128000#32 demoArch) demo).seq.words
    ∧ decode demo.params (.w16 0x2000#16)
        = .ok (.w16Ctrl ⟨false, false, false, false, false, false, false, false⟩) :=
  ⟨demo_registers, by decide, by decide, by rfl, by decide, by decide, by decide, by decide⟩

/-- INIT started in the small state, whose mode table has Sine all clear, with its control word that holds the reset. -/
theorem witness_OnlyEmittedFormatsAreEmitted_init :
    exec .init demo = .next (startWrite true (initEffect Params.default) demo)
    ∧ (startWrite true (initEffect Params.default) demo).busy = true
    ∧ demo.params.modeTable.sine = ⟨false, false, false, false, false⟩
    ∧ 0x2100#16 ∈ (startWrite true (initEffect Params.default) demo).seq.words
    ∧ decode demo.params (.w16 0x2100#16)
        = .ok (.w16Ctrl ⟨false, false, true, false, false, false, false, false⟩) :=
  ⟨by rfl, by decide, by decide, by decide, by decide⟩

/-- Each branch of the lifecycle's case distinction. -/
theorem witness_LifecycleTransitions :
    Params.default.wf = true ∧ validate true 0x0000000000#40 = none ∧ validate true 0xB100000000#40 = none
    ∧ validate true 0xB000000000#40 = none ∧ validate true 0x5000000000#40 = none
    ∧ validate true 0xB200000000#40 ≠ none := by decide

/-- SETFREQ while parked: its control word, which restates the held reset. -/
theorem witness_ControlWordsHoldTheResetWhileParked :
    Params.default.wf = true ∧ ArchInv Params.default demoParked ∧ lifecycle Params.default demoParked = .parked
    ∧ cmdOp 0x100001F400#40 ≠ 0#4 ∧ 0x100001F400#40 ≠ 0xB000000000#40
    ∧ 0x2100#16 ∈ (perform Params.default demoParked 0x100001F400#40).words
    ∧ topCode 0x2100#16 = topCode Params.default.sel.ctrl :=
  ⟨by decide, demoParked_inv, by decide, by decide, by decide, by decide, by decide⟩

/-- LawsOfTheSource, also clause (b)'s channel and clause (f)'s kinds of bit. -/
theorem witness_LawsOfTheSource :
    Params.default.wf = true ∧ demoArch.initDone = true ∧ ArchInv Params.default demoArch ∧ demoArch.fselActive = .ch0
    ∧ cmdOp 0xB100000000#40 ≠ 0#4 ∧ 9 ∉ Params.default.bit.toList ∧ 16 ∉ Params.default.bit.toList :=
  ⟨by decide, by decide, demoArch_inv, by decide, by decide, by decide, by decide⟩

theorem witness_AccessorsReturnWhatWasSet : demoArch.initDone = true := by decide

theorem witness_AccessorsMirrorTheControlWord :
    RegisterInv demo ∧ demo.arch.initDone = true
    ∧ modeBitsOf demo.params demo.arch.cw = demo.params.modeTable.bits .sine :=
  ⟨demo_registers, by decide, by decide⟩

theorem witness_ResetScenarioTwoFrames :
    (demoWith 0x2000#16 [0xB100000000#40, 0xB000000000#40]).params = Params.default
    ∧ idle (demoWith 0x2000#16 [0xB100000000#40, 0xB000000000#40])
    ∧ (demoWith 0x2000#16 [0xB100000000#40, 0xB000000000#40]).arch.initDone = true
    ∧ (demoWith 0x2000#16 [0xB100000000#40, 0xB000000000#40]).arch.cw = 0x2000#16
    ∧ (demoWith 0x2000#16 [0xB100000000#40, 0xB000000000#40]).script = []
    ∧ (demoWith 0x2000#16 [0xB100000000#40, 0xB000000000#40]).caller = [0xB100000000#40, 0xB000000000#40] :=
  ⟨rfl, demo_idle, rfl, rfl, rfl, rfl⟩

theorem witness_AssemblerNeverRounds :
    assemble (.setfreq 15 (.decimal 10005 1)) = some (.setfreq 15#4 128064#32)
    ∧ assemble (.setphase 1 (.decimal 4375 4)) = some (.setphase 1#4 7#16) := by decide

end Sys2Proof.Tests
end

section
/-! PROOFS. The reference receiver is what performing an emitted word does (20_memory.md R57). -/

namespace Sys2Proof

/-! The bits that tell a word's register (20_memory.md R41). -/

/-- A mask that keeps bits 15:14 keeps the register code. -/
theorem topCode_and_of_mask {m : Word16} (h14 : m.getLsbD 14 = true) (h15 : m.getLsbD 15 = true) (w : Word16) :
    topCode (w &&& m) = topCode w := by
  simp [topCode_eq_iff, h14, h15]

/-- A phase selector is made of its bits 15:13. -/
theorem and_not_0x1FFF_of_low_clear {sel : Word16} (h : sel.extractLsb' 0 13 = 0#13) : sel &&& ~~~0x1FFF#16 = sel := by
  apply word16_ext
  intro n hn
  by_cases hlow : n < 13
  · simp [low_bits_clear h hlow]
  · have hm : (~~~0x1FFF#16).getLsbD n = true := by revert hlow; revert n; decide
    rw [BitVec.getLsbD_and, hm, Bool.and_true]

/-- The receiver reads from bits 15:13 the selector that the format shows in bits 15:12. -/
theorem and_not_0x1FFF_of_phaseFormat {p : Params} (hc : p.Conditions) {c : Chan} {w : Word16}
    (hw : w &&& 0xF000#16 = p.sel.phase c) : w &&& ~~~0x1FFF#16 = p.sel.phase c := by
  have hlow : (p.sel.phase c).extractLsb' 0 13 = 0#13 := by
    cases c
    · exact hc.phase0_low
    · exact hc.phase1_low
  calc w &&& ~~~0x1FFF#16
      = w &&& 0xF000#16 &&& ~~~0x1FFF#16 := by rw [BitVec.and_assoc]; rfl
    _ = p.sel.phase c := by rw [hw, and_not_0x1FFF_of_low_clear hlow]

/-! The control format. -/

/-- The fields of a word put back are its bits under the field mask. -/
theorem ctrlWord_ctrlFieldsOf_getLsbD {p : Params} (hc : p.Conditions) (w : Word16) (n : Nat) :
    (ctrlWord p (ctrlFieldsOf p w)).getLsbD n
      = ((ctrlFixedBits p).getLsbD n || (w.getLsbD n && (ctrlFieldMask p).getLsbD n)) := by
  have field (i : Nat) : (w.getLsbD i && decide (n = i)) = (w.getLsbD n && decide (n = i)) := by
    by_cases h : n = i <;> simp [h]
  simp only [ctrlWord_getLsbD hc, ctrlFixedBits_getLsbD hc, ctrlFieldMask_getLsbD, ctrlFieldsOf, field]
  cases decide (n < 16) <;> cases w.getLsbD n <;> simp [Bool.or_assoc]

/-- A word of the control format is the control word of its fields (30_encoding.md R70). -/
theorem ctrlWord_ctrlFieldsOf {p : Params} (hc : p.Conditions) {w : Word16}
    (h : w &&& ~~~(ctrlFieldMask p) = ctrlFixedBits p) : ctrlWord p (ctrlFieldsOf p w) = w := by
  apply word16_ext
  intro n hn
  rw [ctrlWord_ctrlFieldsOf_getLsbD hc, ← h, BitVec.getLsbD_and, BitVec.getLsbD_not]
  cases w.getLsbD n <;> cases (ctrlFieldMask p).getLsbD n <;> simp [hn]

/-- No named bit lies in bits 15:14. -/
theorem Params.Conditions.ne_of_ge {p : Params} (hc : p.Conditions) {n : Nat} (hn : 14 ≤ n) :
    ∀ i ∈ p.bit.toList, n ≠ i := fun i hi heq => by
  have := hc.bit_lt i hi
  omega

/-- A word of the control format carries the control register's code. -/
theorem topCode_of_ctrlFormat {p : Params} (hc : p.Conditions) {w : Word16}
    (h : w &&& ~~~(ctrlFieldMask p) = ctrlFixedBits p) : topCode w = topCode p.sel.ctrl := by
  have high_clear (n : Nat) (hn : 14 ≤ n) :
      (ctrlFieldMask p).getLsbD n = false ∧ (ctrlFixedBits p).getLsbD n = false := by
    have hne := hc.ne_of_ge hn
    simp only [BitPos.toList, List.mem_cons, List.not_mem_nil, or_false, forall_eq_or_imp, forall_eq] at hne
    simp [ctrlFieldMask_getLsbD, ctrlFixedBits_getLsbD hc, hne]
  obtain ⟨m14, f14⟩ := high_clear 14 (by omega)
  obtain ⟨m15, f15⟩ := high_clear 15 (by omega)
  calc topCode w
      = topCode (w &&& ~~~(ctrlFieldMask p)) :=
        (topCode_and_of_mask (by rw [BitVec.getLsbD_not, m14]; rfl) (by rw [BitVec.getLsbD_not, m15]; rfl) w).symm
    _ = topCode p.sel.ctrl := by rw [h, topCode_eq_iff, f14, f15, hc.selCtrl]; exact ⟨rfl, rfl⟩

end Sys2Proof

namespace Sys2Proof.Machine

open Sys2Proof

/-! The branches of the receiver (20_memory.md R57), each reached by the words of its format. -/

theorem receive_of_ctrlFormat {p : Params} (hc : p.Conditions) {w : Word16}
    (h : w &&& ~~~(ctrlFieldMask p) = ctrlFixedBits p) (d : Dev) : receive p w d = receiveControl w d := by
  simp [receive, topCode_of_ctrlFormat hc h]

theorem receive_of_freqFormat {p : Params} (hc : p.Conditions) {c : Chan} {w : Word16}
    (h : w &&& 0xC000#16 = p.sel.freq c) (d : Dev) : receive p w d = receiveFreq p c (w.extractLsb' 0 14) d := by
  have htop : topCode w = topCode (p.sel.freq c) := by
    rw [← h, topCode_and_of_mask rfl rfl]
  have codes := hc.codes
  simp only [List.nodup_cons, List.mem_cons, List.not_mem_nil, or_false, not_or] at codes
  obtain ⟨⟨ctrl_ne_freq0, ctrl_ne_freq1, -⟩, ⟨freq0_ne_freq1, -⟩, -⟩ := codes
  cases c
  · simp [receive, htop, Selectors.freq, Ne.symm ctrl_ne_freq0]
  · simp [receive, htop, Selectors.freq, Ne.symm ctrl_ne_freq1, Ne.symm freq0_ne_freq1]

theorem receive_of_phaseFormat {p : Params} (hc : p.Conditions) {c : Chan} {w : Word16}
    (h : w &&& 0xF000#16 = p.sel.phase c) (d : Dev) : receive p w d = receivePhase c (w.extractLsb' 0 12) d := by
  have htop : topCode w = topCode p.sel.phase0 := by
    rw [← topCode_and_of_mask (m := 0xF000#16) rfl rfl w, h]
    cases c
    · rfl
    · exact hc.phase_top
  have codes := hc.codes
  simp only [List.nodup_cons, List.mem_cons, List.not_mem_nil, or_false, not_or] at codes
  obtain ⟨⟨-, -, ctrl_ne⟩, ⟨-, freq0_ne⟩, freq1_ne, -⟩ := codes
  unfold receive
  rw [htop, if_neg (Ne.symm ctrl_ne), if_neg (Ne.symm freq0_ne), if_neg (Ne.symm freq1_ne),
    and_not_0x1FFF_of_phaseFormat hc h]
  cases c
  · simp [Selectors.phase, hc.phase_ne]
  · simp [Selectors.phase]

/-- Performing the instruction that an emitted word decodes to does to the chip what the receiver's own pseudocode does
with the word. -/
theorem exec_of_decodeW16 {s : State} {w : Word16} {i : Instr} (hp : s.params.wf = true)
    (h : decodeW16 s.params w = .ok i) : exec i s = .next { s with dev := receive s.params w s.dev } := by
  have hc := Params.conditions_of_wf hp
  unfold decodeW16 at h
  split at h
  next hw =>
    obtain rfl := Decoded.ok.inj h
    rw [receive_of_ctrlFormat hc hw, exec, execW16Ctrl, ctrlWord_ctrlFieldsOf hc hw]
  split at h
  next hw =>
    obtain rfl := Decoded.ok.inj h
    rw [receive_of_freqFormat hc (c := .ch0) hw, exec, execW16Freq0]
  split at h
  next hw =>
    obtain rfl := Decoded.ok.inj h
    rw [receive_of_freqFormat hc (c := .ch1) hw, exec, execW16Freq1]
  split at h
  next hw =>
    obtain rfl := Decoded.ok.inj h
    rw [receive_of_phaseFormat hc (c := .ch0) hw, exec, execW16Phase0]
  split at h
  next hw =>
    obtain rfl := Decoded.ok.inj h
    rw [receive_of_phaseFormat hc (c := .ch1) hw, exec, execW16Phase1]
  next => simp at h

/-- The chip takes the two bytes of any word by the receiver's pseudocode, whether the word has an emitted format or
not. -/
theorem deliver_bytes {s : State} (hp : s.params.wf = true) (w : Word16) :
    deliver [highByte w, lowByte w] s = .next { s with dev := receive s.params w s.dev } := by
  simp only [deliver, wordOfBytes_bytes]
  cases hd : decode s.params (.w16 w) with
  | ok i => exact exec_of_decodeW16 hp hd
  | invalid why => rfl

end Sys2Proof.Machine
end

section
/-! PROOFS. The sequencer, every call completing at once, sends any word list (42_sequencer.md R133, R140). -/

namespace Sys2Proof.Machine

open Sys2Proof

/-- What the frames of `ws` leave on the wire and in the chip; the sequencer and the block's registers are as they
were. -/
def afterFrames (ws : List Word16) (s : State) : State :=
  { s with
    trace := s.trace ++ framesOf ws
    frame := false
    rxBytes := []
    dev := receiveAll s.params ws s.dev }

@[simp] theorem afterFrames_seq (ws : List Word16) (s : State) : (afterFrames ws s).seq = s.seq := rfl

/-- The frames of a list are the first word's frame and then the frames of the others. -/
theorem afterFrames_cons (w : Word16) (ws : List Word16) (s : State) :
    afterFrames (w :: ws) s = afterFrames ws (afterFrames [w] s) := by
  simp [afterFrames, framesOf, receiveAll]

/-- A command runs, every call completes at once, and the sequencer is at word `i` of `ws` in the phase `ph`. -/
structure Serving (ws : List Word16) (i : Nat) (ph : Phase) (s : State) : Prop where
  busy : s.busy = true
  script : s.script = []
  seq : s.seq = ⟨ws, i, ph⟩

/-! One step for each phase of a frame (42_sequencer.md R143). -/

section
variable {s : State} {ws : List Word16} {i : Nat} {ph : Phase} {w : Word16}

theorem Serving.configured (h : Serving ws i ph s) :
    Serving ws i .frameBegin (setPhase .frameBegin (doConfigure (clearRsp s))) :=
  ⟨h.busy, h.script, by simp [h.seq]⟩

theorem Serving.frameBegun (h : Serving ws i ph s) : Serving ws i .hi (setPhase .hi (doBeginFrame (clearRsp s))) :=
  ⟨h.busy, h.script, by simp [h.seq]⟩

theorem Serving.byteSent (h : Serving ws i ph s) (b : Byte) (ph' : Phase) :
    Serving ws i ph' (setPhase ph' (doTransferByte b (clearRsp s))) :=
  ⟨h.busy, h.script, by simp [h.seq]⟩

theorem Serving.step_eq (h : Serving ws i ph s) : step s = completeCall (clearRsp s) := by
  simp [step, microStep, serve, h.busy, h.script]

theorem Serving.step_of_cfg (h : Serving ws i .cfg s) :
    step s = .next (setPhase .frameBegin (doConfigure (clearRsp s))) := by
  simp [h.step_eq, completeCall, h.seq]

theorem Serving.step_of_frameBegin (h : Serving ws i .frameBegin s) :
    step s = .next (setPhase .hi (doBeginFrame (clearRsp s))) := by
  simp [h.step_eq, completeCall, h.seq]

theorem Serving.step_of_hi (h : Serving ws i .hi s) (hw : ws[i]? = some w) :
    step s = .next (setPhase .lo (doTransferByte (highByte w) (clearRsp s))) := by
  simp [h.step_eq, completeCall, currentWord, h.seq, hw]

theorem Serving.step_of_lo (h : Serving ws i .lo s) (hw : ws[i]? = some w) :
    step s = .next (setPhase .frameEnd (doTransferByte (lowByte w) (clearRsp s))) := by
  simp [h.step_eq, completeCall, currentWord, h.seq, hw]

theorem Serving.step_of_frameEnd (h : Serving ws i .frameEnd s) (hp : s.params.wf = true)
    (hr : s.rxBytes = [highByte w, lowByte w]) :
    step s = .next (advance { doEndFrame (clearRsp s) with dev := receive s.params w s.dev }) := by
  have hd := deliver_bytes (s := doEndFrame (clearRsp s)) hp w
  simp [h.step_eq, completeCall, stepFrameEnd, h.seq, hr, hd]

/-- The four calls of one frame (42_sequencer.md R131): the chip has the word, and the sequencer advances. -/
theorem Serving.run_frame (h : Serving ws i .frameBegin s) (hp : s.params.wf = true) (hw : ws[i]? = some w) :
    run 4 s = .next (advance (afterFrames [w] { s with rsp := none, seq := ⟨ws, i, .frameEnd⟩ })) := by
  have h1 := h.frameBegun
  have h2 := h1.byteSent (highByte w) .lo
  have h3 := h2.byteSent (lowByte w) .frameEnd
  rw [run_succ_of_next h.step_of_frameBegin, run_succ_of_next (h1.step_of_hi hw), run_succ_of_next (h2.step_of_lo hw),
    run_succ_of_next (h3.step_of_frameEnd (w := w) (by simpa using hp) (by simp)), run_zero]
  simp [afterFrames, framesOf, frameOf, receiveAll, setPhase, doTransferByte, doBeginFrame, doEndFrame,
    emitEvent, clearRsp, h.seq]

end

/-- The end of a command depends neither on the response port nor on the sequencer's position. -/
theorem finish_congr (s : State) (r : Option Response) (q : Seq) : finish { s with rsp := r, seq := q } = finish s := by
  cases h : s.pending <;> simp [finish, respond, commit, h]

/-- From the begin of a word's frame, the words from there to the end of the list are framed and the command ends. -/
theorem run_frames {pre ws : List Word16} (hws : ws ≠ []) {s : State}
    (h : Serving (pre ++ ws) pre.length .frameBegin s) (hp : s.params.wf = true) :
    run (4 * ws.length) s = .next (finish (afterFrames ws s)) := by
  induction ws generalizing pre s with
  | nil => exact absurd rfl hws
  | cons w tail ih =>
    have hframe := h.run_frame hp (w := w) (by simp)
    cases tail with
    | nil =>
      have hlast : advance (afterFrames [w] { s with rsp := none, seq := ⟨pre ++ [w], pre.length, .frameEnd⟩ })
          = finish (afterFrames [w] s) := by
        simp only [advance, afterFrames_seq, List.length_append, List.length_singleton, lt_irrefl, if_false]
        exact finish_congr (afterFrames [w] s) none _
      rw [hlast] at hframe
      exact hframe
    | cons v tail =>
      let next : State :=
        { afterFrames [w] s with rsp := none, seq := ⟨pre ++ w :: v :: tail, pre.length + 1, .frameBegin⟩ }
      have hnext : advance
          (afterFrames [w] { s with rsp := none, seq := ⟨pre ++ w :: v :: tail, pre.length, .frameEnd⟩ }) = next := by
        simp [advance, next, afterFrames]
      have hserving : Serving ((pre ++ [w]) ++ v :: tail) (pre ++ [w]).length .frameBegin next :=
        ⟨h.busy, h.script, by simp [next]⟩
      rw [hnext] at hframe
      calc run (4 * (w :: v :: tail).length) s
          = run (4 + 4 * (v :: tail).length) s := by rw [List.length_cons, Nat.mul_succ, Nat.add_comm]
        _ = run (4 * (v :: tail).length) next := run_add hframe
        _ = .next (finish (afterFrames (v :: tail) next)) := ih (List.cons_ne_nil _ _) hserving hp
        _ = .next (finish (afterFrames (w :: v :: tail) s)) := by
            rw [afterFrames_cons w]
            exact congrArg _ (finish_congr (afterFrames (v :: tail) (afterFrames [w] s)) none _)

/-- The trace gains `configure()` if the command asks for it (42_sequencer.md R132). -/
def afterConfigure (cfg : Bool) (s : State) : State := { s with trace := s.trace ++ if cfg then [.configure] else [] }

/-- A started command, every call completing at once: its word list is framed and its state committed after `4n + cfg`
steps (42_sequencer.md R140). -/
theorem run_startWrite {s : State} (cfg : Bool) {e : Effect} (he : e.words ≠ []) (hp : s.params.wf = true)
    (hs : s.script = []) :
    run (4 * e.words.length + (if cfg then 1 else 0)) (startWrite cfg e s)
      = .next (finish (afterFrames e.words (startWrite cfg e (afterConfigure cfg s)))) := by
  cases cfg with
  | false =>
    have hstart : Serving ([] ++ e.words) 0 .frameBegin (startWrite false e s) := ⟨rfl, hs, rfl⟩
    simpa [afterConfigure] using run_frames he hstart hp
  | true =>
    have hcfg : Serving ([] ++ e.words) 0 .cfg (startWrite true e s) := ⟨rfl, hs, rfl⟩
    have hstart := hcfg.configured
    rw [if_pos rfl, run_succ_of_next hcfg.step_of_cfg, run_frames he hstart hp]
    exact congrArg _ (finish_congr (afterFrames e.words (startWrite true e (afterConfigure true s))) none _)

end Sys2Proof.Machine
end

section
/-! PROOFS. The two levels agree (00_scope.md R9): what the command level says of a command word, the acceptance of the
word begins and the sequencer completes. -/

namespace Sys2Proof.Machine

open Sys2Proof

/-! Validation, at both levels a sequence of checks (60_exceptions.md R150). -/

theorem not_channelInRange (c : BitVec 4) : (!channelInRange c) = decide (1 < c.toNat) := by
  simp [channelInRange, ← decide_not]

theorem not_modeInRange (m : BitVec 4) : (!modeInRange m) = decide (4 < m.toNat) := by
  simp [modeInRange, ← decide_not]

theorem chanOf_eq (c : BitVec 4) : chanOf c = if channelInRange c then some (validChan c) else none := by
  revert c; decide

theorem modeOf_eq (m : BitVec 4) : modeOf m = if modeInRange m then some (validMode m) else none := by
  revert m; decide

theorem withChan_eq (c : BitVec 4) (s : State) (k : Chan → Result) :
    withChan c s k = if channelInRange c then needInit s (k (validChan c)) else .next (reject .errInvalid s) := by
  cases h : channelInRange c <;> simp [withChan, chanOf_eq, h]

theorem withMode_eq (m : BitVec 4) (s : State) (k : Mode → Result) :
    withMode m s k = if modeInRange m then needInit s (k (validMode m)) else .next (reject .errInvalid s) := by
  cases h : modeInRange m <;> simp [withMode, modeOf_eq, h]

theorem accept_of_needZero {w : CmdWord} {cond : Bool} {i : Instr} (h : decodeCmd w = needZero cond i) (s : State) :
    accept w s = if cond then exec i s else .next (reject .errInvalid s) := by
  cases cond <;> simp [accept, decode, h, needZero]

/-- A check of the command level: its failure is the response `(st, 0)` and nothing else (60_exceptions.md R151). -/
def orReject (ok : Bool) (st : Status) (a : Arch) (r : CommandResult) : CommandResult :=
  if ok then r else ⟨false, [], ⟨st, 0#32⟩, a⟩

/-- The command level checks operation code, must-be-zero bits, operand and initialisation, in this order. -/
theorem perform_eq_checks {p : Params} {a : Arch} {w : CmdWord} {r : CommandResult}
    (hr : validate a.initDone w = none → perform p a w = r) :
    perform p a w =
      orReject (decide ((cmdOp w).toNat < 12)) .errInvalid a
        (orReject (!mustBeZeroBroken w) .errInvalid a
          (orReject (!operandOutOfRange w) .errInvalid a
            (orReject ((cmdOp w).toNat == 0 || a.initDone) .errNotInit a r))) := by
  have rejected {st : Status} (hv : validate a.initDone w = some st) :
      perform p a w = ⟨false, [], ⟨st, 0#32⟩, a⟩ := by simp only [perform, hv]
  by_cases hop : (cmdOp w).toNat < 12
  swap
  · simp [orReject, hop, rejected (st := .errInvalid) (by simp [validate, Nat.not_lt.1 hop])]
  cases hz : mustBeZeroBroken w
  swap
  · simp [orReject, hop, rejected (st := .errInvalid) (by simp [validate, hz])]
  cases ho : operandOutOfRange w
  swap
  · simp [orReject, hop, rejected (st := .errInvalid) (by simp [validate, ho])]
  by_cases hi : (cmdOp w).toNat ≠ 0 ∧ a.initDone = false
  · simp [orReject, hop, hi, rejected (st := .errNotInit) (by simp [validate, hop, hz, ho, hi])]
  · have hv : validate a.initDone w = none := by
      simp only [validate, Nat.not_le.2 hop, hz, ho, hi, if_false, Bool.false_eq_true]
    have hready : ((cmdOp w).toNat == 0 || a.initDone) = true := by simpa [or_iff_not_imp_left] using hi
    simp [orReject, hop, hready, hr hv]

/-- The result of a command at the command level, and the outcome of its acceptance in the state `s`, mean the same: an
immediate response, or the start of the sequencer with a word list. -/
inductive Agrees (s : State) : CommandResult → Result → Prop where
  | responds (rsp : Response) : Agrees s ⟨false, [], rsp, s.arch⟩ (.next (respond rsp.status rsp.rval s))
  | starts {cfg : Bool} {e : Effect} (h : e.words ≠ []) : Agrees s (writes cfg e) (.next (startWrite cfg e s))

section
variable {s : State} {w : CmdWord} {r : CommandResult} {out : Result}

theorem Agrees.answers (v : BitVec 32) : Agrees s (returns v s.arch) (.next (answer v s)) := .responds ⟨.ok, v⟩

theorem Agrees.check {ok : Bool} {st : Status} (h : Agrees s r out) :
    Agrees s (orReject ok st s.arch r) (if ok then out else .next (reject st s)) := by
  cases ok
  · exact .responds ⟨st, 0#32⟩
  · exact h

theorem Agrees.withChan {c : BitVec 4} {k : Chan → Result} (h : Agrees s r (k (validChan c))) :
    Agrees s (orReject (channelInRange c) .errInvalid s.arch (orReject s.arch.initDone .errNotInit s.arch r))
      (withChan c s k) := by
  rw [withChan_eq]
  exact h.check.check

theorem Agrees.withMode {m : BitVec 4} {k : Mode → Result} (h : Agrees s r (k (validMode m))) :
    Agrees s (orReject (modeInRange m) .errInvalid s.arch (orReject s.arch.initDone .errNotInit s.arch r))
      (withMode m s k) := by
  rw [withMode_eq]
  exact h.check.check

theorem Agrees.needInit (h : Agrees s r out) :
    Agrees s (orReject true .errInvalid s.arch (orReject s.arch.initDone .errNotInit s.arch r)) (needInit s out) :=
  h.check

/-- What the fields of a command word say, read by the decoder and by the command level: the instruction, whether its
must-be-zero bits are zero, whether its operand is in range. -/
structure Fields (w : CmdWord) (i : Instr) (zero inRange : Bool) : Prop where
  decodes : decodeCmd w = needZero zero i
  zeroBits : mustBeZeroBroken w = !zero
  operand : operandOutOfRange w = !inRange

/-- The four commands without operands (30_encoding.md R69). -/
theorem Fields.ofBare (i : Instr) (hop : (cmdOp w).toNat ∈ [0, 6, 8, 10])
    (hd : decodeCmd w = needZero (cmdArg w == 0#4 && cmdVal w == 0#32) i) :
    Fields w i (cmdArg w == 0#4 && cmdVal w == 0#32) true where
  decodes := hd
  zeroBits := by
    simp only [List.mem_cons, List.not_mem_nil, or_false] at hop
    rcases hop with hop | hop | hop | hop <;> simp [mustBeZeroBroken, hop, bne, Bool.or_comm]
  operand := by
    simp only [List.mem_cons, List.not_mem_nil, or_false] at hop
    rcases hop with hop | hop | hop | hop <;> simp [operandOutOfRange, hop]

/-- The four commands whose one operand is a channel (30_encoding.md R64, R69). -/
theorem Fields.ofChannel (i : Instr) (hop : (cmdOp w).toNat ∈ [2, 4, 7, 9])
    (hd : decodeCmd w = needZero (cmdVal w == 0#32) i) :
    Fields w i (cmdVal w == 0#32) (channelInRange (cmdArg w)) where
  decodes := hd
  zeroBits := by
    simp only [List.mem_cons, List.not_mem_nil, or_false] at hop
    rcases hop with hop | hop | hop | hop <;> simp [mustBeZeroBroken, hop, bne]
  operand := by
    simp only [List.mem_cons, List.not_mem_nil, or_false] at hop
    rcases hop with hop | hop | hop | hop <;> simp [operandOutOfRange, hop, not_channelInRange]

/-- The levels agree on a word when they agree behind the checks of its format. -/
theorem Agrees.ofFields {op : Nat} {zero inRange : Bool} {i : Instr} (hop : (cmdOp w).toNat = op) (hlt : op < 12)
    (hw : Fields w i zero inRange) (hr : validate s.arch.initDone w = none → perform s.params s.arch w = r)
    (h : Agrees s (orReject inRange .errInvalid s.arch (orReject (op == 0 || s.arch.initDone) .errNotInit s.arch r))
      (exec i s)) :
    Agrees s (perform s.params s.arch w) (accept w s) := by
  rw [perform_eq_checks hr, accept_of_needZero hw.decodes, hw.zeroBits, hw.operand, hop, Bool.not_not, Bool.not_not,
    decide_eq_true hlt]
  exact h.check

end

theorem resetEffect_words_ne_nil (p : Params) (hold : Bool) (a : Arch) : (resetEffect p hold a).words ≠ [] := by
  unfold resetEffect
  split
  · exact List.cons_ne_nil _ _
  split
  · exact List.cons_ne_nil _ _
  · exact List.cons_ne_nil _ _

/-- Every command word: the two levels agree on its acceptance. -/
theorem accept_agrees (w : CmdWord) (s : State) : Agrees s (perform s.params s.arch w) (accept w s) := by
  match hop : (cmdOp w).toNat with
  | 0 =>
    exact .ofFields (r := writes true (initEffect s.params)) hop (by decide)
      (.ofBare .init (by simp [hop]) (by simp [decodeCmd, hop]))
      (fun hv => by simp [perform, hv, hop]) (.starts (List.cons_ne_nil _ _))
  | 1 =>
    have hw : Fields w (.setfreq (cmdArg w) (cmdVal w)) true (channelInRange (cmdArg w)) := by
      constructor <;> simp [decodeCmd, mustBeZeroBroken, operandOutOfRange, hop, needZero, not_channelInRange]
    exact .ofFields hop (by decide) hw (fun hv => by simp [perform, hv, hop])
      (.withChan (.starts (List.cons_ne_nil _ _)))
  | 2 =>
    exact .ofFields hop (by decide) (.ofChannel (.getfreq (cmdArg w)) (by simp [hop]) (by simp [decodeCmd, hop]))
      (fun hv => by simp [perform, hv, hop]) (.withChan (.answers _))
  | 3 =>
    have hw : Fields w (.setphase (cmdArg w) ((cmdVal w).extractLsb' 0 16)) ((cmdVal w).extractLsb' 16 16 == 0#16)
        (channelInRange (cmdArg w)) := by
      constructor <;> simp [decodeCmd, mustBeZeroBroken, operandOutOfRange, hop, bne, not_channelInRange]
    exact .ofFields hop (by decide) hw (fun hv => by simp [perform, hv, hop])
      (.withChan (.starts (List.cons_ne_nil _ _)))
  | 4 =>
    exact .ofFields hop (by decide) (.ofChannel (.getphase (cmdArg w)) (by simp [hop]) (by simp [decodeCmd, hop]))
      (fun hv => by simp [perform, hv, hop]) (.withChan (.answers _))
  | 5 =>
    have hw : Fields w (.setmode (cmdArg w)) (cmdVal w == 0#32) (modeInRange (cmdArg w)) := by
      constructor <;> simp [decodeCmd, mustBeZeroBroken, operandOutOfRange, hop, bne, not_modeInRange]
    exact .ofFields hop (by decide) hw (fun hv => by simp [perform, hv, hop])
      (.withMode (.starts (List.cons_ne_nil _ _)))
  | 6 =>
    exact .ofFields hop (by decide) (.ofBare .getmode (by simp [hop]) (by simp [decodeCmd, hop]))
      (fun hv => by simp [perform, hv, hop]) (.needInit (.answers _))
  | 7 =>
    exact .ofFields hop (by decide) (.ofChannel (.setfsel (cmdArg w)) (by simp [hop]) (by simp [decodeCmd, hop]))
      (fun hv => by simp [perform, hv, hop]) (.withChan (.starts (List.cons_ne_nil _ _)))
  | 8 =>
    exact .ofFields hop (by decide) (.ofBare .getfsel (by simp [hop]) (by simp [decodeCmd, hop]))
      (fun hv => by simp [perform, hv, hop]) (.needInit (.answers _))
  | 9 =>
    exact .ofFields hop (by decide) (.ofChannel (.setpsel (cmdArg w)) (by simp [hop]) (by simp [decodeCmd, hop]))
      (fun hv => by simp [perform, hv, hop]) (.withChan (.starts (List.cons_ne_nil _ _)))
  | 10 =>
    exact .ofFields hop (by decide) (.ofBare .getpsel (by simp [hop]) (by simp [decodeCmd, hop]))
      (fun hv => by simp [perform, hv, hop]) (.needInit (.answers _))
  | 11 =>
    have hw : Fields w (.reset ((cmdArg w).getLsbD 0)) ((cmdArg w).extractLsb' 1 3 == 0#3 && cmdVal w == 0#32)
        true := by
      constructor <;> simp [decodeCmd, mustBeZeroBroken, operandOutOfRange, hop, bne, Bool.or_comm]
    exact .ofFields hop (by decide) hw (fun hv => by simp [perform, hv, hop])
      (.needInit (.starts (resetEffect_words_ne_nil _ _ _)))
  | op + 12 =>
    have hd : decodeCmd w = .invalid .reservedOp := by simp [decodeCmd, hop]
    have hv : validate s.arch.initDone w = some .errInvalid := by simp [validate, hop]
    simp only [perform, hv, accept, decode, hd]
    exact .responds ⟨.errInvalid, 0#32⟩

/-! The end of the command. -/

theorem respond_eq_afterCommand (rsp : Response) (s : State) :
    respond rsp.status rsp.rval s = afterCommand ⟨false, [], rsp, s.arch⟩ s := by
  simp [respond, afterCommand, commandTrace, framesOf, receiveAll]

theorem finish_eq_afterCommand {s : State} (hs : idle s) (cfg : Bool) {e : Effect} (he : e.words ≠ []) :
    finish (afterFrames e.words (startWrite cfg e (afterConfigure cfg s))) = afterCommand (writes cfg e) s := by
  obtain ⟨hbusy, hseq, hpending⟩ := hs
  cases cfg <;> simp [finish, respond, commit, afterFrames, startWrite, afterConfigure, afterCommand, writes,
    commandTrace, he, hbusy, hseq, hpending]

theorem callCount_writes (cfg : Bool) {e : Effect} (he : e.words ≠ []) :
    callCount (writes cfg e) = 4 * e.words.length + (if cfg then 1 else 0) := by
  cases cfg <;> simp [callCount, writes, he]

/-- A step that ends as the acceptance of a command in the idle state `s` does, and then the command's calls, lead to
the state of the command level. -/
theorem Agrees.run_eq {s t : State} {r : CommandResult} {out : Result} (h : Agrees s r out) (hp : s.params.wf = true)
    (hidle : idle s) (hs : s.script = []) (hstep : step t = out) :
    run (1 + callCount r) t = .next (afterCommand r s) := by
  rw [Nat.add_comm]
  cases h with
  | responds rsp => rw [run_succ_of_next hstep, respond_eq_afterCommand]; rfl
  | @starts cfg e he =>
    rw [callCount_writes cfg he, run_succ_of_next hstep, run_startWrite cfg he hp hs,
      finish_eq_afterCommand hidle cfg he]

/-- Settles O24: the levels agree on the acceptance of the word (`accept_agrees`), and the sequencer's run ends in the
state of the command level (`Agrees.run_eq`). -/
theorem microStepsAgreeWithCommandLevel : Obligations.MicroStepsAgreeWithCommandLevel := by
  unfold Obligations.MicroStepsAgreeWithCommandLevel
  intro s w rest hp hidle hs hc
  have hstep : step s = accept w { s with rsp := none, caller := rest } := by
    obtain ⟨hbusy, -, -⟩ := hidle
    simp [step, microStep, acceptNext, hbusy, hc, clearRsp]
  exact (accept_agrees w { s with rsp := none, caller := rest }).run_eq hp hidle hs hstep

end Sys2Proof.Machine
end

section
/-! PROOFS. The control word in closed form (30_encoding.md R70): the word of its fields, and what each operation on the
control word does to these fields. -/

namespace Sys2Proof

/-- A named position lies inside a word. -/
theorem Params.Conditions.position_lt {p : Params} (hc : p.Conditions) {i : Nat} (hi : i ∈ p.bit.toList) : i < 16 :=
  Nat.lt_trans (hc.bit_lt i hi) (by decide)

/-- A word of fields is of the control format (30_encoding.md R78). -/
theorem ctrlWord_ctrlFormat {p : Params} (hc : p.Conditions) (f : CtrlFields) :
    ctrlWord p f &&& ~~~(ctrlFieldMask p) = ctrlFixedBits p := by
  have distinct := hc.bit_nodup
  simp only [BitPos.toList, List.nodup_cons, List.mem_cons, List.not_mem_nil, or_false, not_or] at distinct
  apply word16_ext
  intro n hn
  simp only [BitVec.getLsbD_and, BitVec.getLsbD_not, ctrlWord_getLsbD hc, ctrlFieldMask_getLsbD,
    ctrlFixedBits_getLsbD hc, hn, decide_true, Bool.true_and]
  by_cases hb : n = p.bit.b28
  · simp [hb, distinct]
  · grind

/-- The fields of a word of fields. -/
theorem ctrlFieldsOf_ctrlWord {p : Params} (hc : p.Conditions) (f : CtrlFields) :
    ctrlFieldsOf p (ctrlWord p f) = f := by
  have distinct := hc.bit_nodup
  have distinct' := List.nodup_reverse.2 hc.bit_nodup
  have inside := fun i => hc.position_lt (i := i)
  simp only [BitPos.toList, List.reverse_cons, List.reverse_nil, List.nil_append, List.cons_append, List.nodup_cons,
    List.mem_cons, List.not_mem_nil, or_false, not_or, forall_eq_or_imp, forall_eq] at distinct distinct' inside
  simp only [ctrlFieldsOf, ctrlWord_getLsbD hc]
  simp [distinct, distinct', inside]

/-- The bits of a word of fields that are no field: `B28` is set, `HLB` and the unnamed bits are clear
(10_state.md R17). -/
theorem ctrlWord_getLsbD_b28 {p : Params} (hc : p.Conditions) (f : CtrlFields) :
    (ctrlWord p f).getLsbD p.bit.b28 = true := by
  simp [ctrlWord_getLsbD hc, hc.position_lt (i := p.bit.b28) (by simp [BitPos.toList])]

theorem ctrlWord_getLsbD_hlb {p : Params} (hc : p.Conditions) (f : CtrlFields) :
    (ctrlWord p f).getLsbD p.bit.hlb = false := by
  have distinct := hc.bit_nodup
  simp only [BitPos.toList, List.nodup_cons, List.mem_cons, List.not_mem_nil, or_false, not_or] at distinct
  obtain ⟨⟨b28_ne_hlb, -⟩, hlb_ne, -⟩ := distinct
  simp [ctrlWord_getLsbD hc, Ne.symm b28_ne_hlb, hlb_ne]

theorem ctrlWord_getLsbD_unnamed {p : Params} (hc : p.Conditions) (f : CtrlFields) {n : Nat}
    (hn : n ∉ p.bit.toList) : (ctrlWord p f).getLsbD n = false := by
  simp only [BitPos.toList, List.mem_cons, List.not_mem_nil, or_false, not_or] at hn
  simp [ctrlWord_getLsbD hc, hn]

/-- A word with `B28` set, `HLB` clear and no unnamed bit is the word of its fields. -/
theorem ctrlWord_of_fixed_bits {p : Params} (hc : p.Conditions) {w : Word16} (hb28 : w.getLsbD p.bit.b28 = true)
    (hhlb : w.getLsbD p.bit.hlb = false) (hunnamed : ∀ n, n ∉ p.bit.toList → w.getLsbD n = false) :
    ctrlWord p (ctrlFieldsOf p w) = w := by
  apply word16_ext
  intro n hn
  rw [ctrlWord_ctrlFieldsOf_getLsbD hc, ctrlFixedBits_getLsbD hc, ctrlFieldMask_getLsbD]
  by_cases hb : n = p.bit.b28
  · simp [hb ▸ hn, hb, hb28]
  by_cases hh : n = p.bit.hlb
  · simp [hh, hhlb, hh ▸ hb]
  by_cases hnamed : n ∈ p.bit.toList
  · simp only [BitPos.toList, List.mem_cons, List.not_mem_nil, or_false, hb, hh, false_or] at hnamed
    have hmask : (decide (n = p.bit.fselect) || decide (n = p.bit.pselect) || decide (n = p.bit.reset)
        || decide (n = p.bit.sleep1) || decide (n = p.bit.sleep12) || decide (n = p.bit.opbiten)
        || decide (n = p.bit.div2) || decide (n = p.bit.mode)) = true := by simpa [or_assoc] using hnamed
    simp [hmask, hn, hb]
  · simp [hunnamed n hnamed, hb]

/-- The five mode bits among the fields of a control word. -/
def CtrlFields.modeBits (f : CtrlFields) : ModeBits := ⟨f.opbiten, f.mode, f.div2, f.sleep1, f.sleep12⟩

/-- The fields with the five mode bits replaced. -/
def CtrlFields.setModeBits (f : CtrlFields) (b : ModeBits) : CtrlFields :=
  { f with opbiten := b.opbiten, mode := b.mode, div2 := b.div2, sleep1 := b.sleep1, sleep12 := b.sleep12 }

end Sys2Proof

namespace Sys2Proof.Machine

open Sys2Proof

theorem modeBitsOf_ctrlWord {p : Params} (hc : p.Conditions) (f : CtrlFields) :
    modeBitsOf p (ctrlWord p f) = f.modeBits :=
  congrArg CtrlFields.modeBits (ctrlFieldsOf_ctrlWord hc f)

theorem resetHeld_ctrlWord {p : Params} (hc : p.Conditions) (f : CtrlFields) :
    resetHeld p (ctrlWord p f) = f.reset :=
  congrArg CtrlFields.reset (ctrlFieldsOf_ctrlWord hc f)

/-! Each operation on the control word (40_register_model.md R97 to R99) replaces its fields and no other bit. -/

/-- A word that differs from a word of fields in one bit, the bit of a field, is the word of the fields with that one
replaced. -/
theorem setBit_ctrlWord {p : Params} (hc : p.Conditions) {f g : CtrlFields} {i : Nat} {b : Bool}
    (hi : i ∈ p.bit.toList) (hset : (ctrlWord p g).getLsbD i = b)
    (hother : ∀ n, n ≠ i → (ctrlWord p g).getLsbD n = (ctrlWord p f).getLsbD n) :
    setBit (ctrlWord p f) i b = ctrlWord p g := by
  apply word16_ext
  intro n _
  rw [setBit_getLsbD _ _ _ _ (hc.position_lt hi)]
  split
  next h => rw [h, hset]
  next h => exact (hother n h).symm

theorem applyReset_ctrlWord {p : Params} (hc : p.Conditions) (f : CtrlFields) (r : Bool) :
    applyReset p (ctrlWord p f) r = ctrlWord p { f with reset := r } :=
  setBit_ctrlWord hc (by simp [BitPos.toList]) (resetHeld_ctrlWord hc _) fun n hn => by
    simp [ctrlWord_getLsbD hc, hn]

theorem applySel_freq_ctrlWord {p : Params} (hc : p.Conditions) (f : CtrlFields) (c : Chan) :
    applySel p (ctrlWord p f) .freq c = ctrlWord p { f with fselect := c.toBool } :=
  setBit_ctrlWord hc (by simp [selBit, BitPos.toList]) (congrArg CtrlFields.fselect (ctrlFieldsOf_ctrlWord hc _))
    fun n hn => by
      have hn : n ≠ p.bit.fselect := hn
      simp [ctrlWord_getLsbD hc, hn]

theorem applySel_phase_ctrlWord {p : Params} (hc : p.Conditions) (f : CtrlFields) (c : Chan) :
    applySel p (ctrlWord p f) .phase c = ctrlWord p { f with pselect := c.toBool } :=
  setBit_ctrlWord hc (by simp [selBit, BitPos.toList]) (congrArg CtrlFields.pselect (ctrlFieldsOf_ctrlWord hc _))
    fun n hn => by
      have hn : n ≠ p.bit.pselect := hn
      simp [ctrlWord_getLsbD hc, hn]

theorem applyMode_ctrlWord {p : Params} (hc : p.Conditions) (f : CtrlFields) (m : Mode) :
    applyMode p (ctrlWord p f) m = ctrlWord p (f.setModeBits (p.modeTable.bits m)) := by
  have distinct := hc.bit_nodup
  have distinct' := List.nodup_reverse.2 hc.bit_nodup
  simp only [BitPos.toList, List.reverse_cons, List.reverse_nil, List.nil_append, List.cons_append, List.nodup_cons,
    List.mem_cons, List.not_mem_nil, or_false, not_or] at distinct distinct'
  apply word16_ext
  intro n hn
  rw [applyMode_getLsbD _ _ _ _ hn]
  split
  next hmode =>
    rcases hmode with rfl | rfl | rfl | rfl | rfl <;>
      simp [modePat, modeBitsWord_getLsbD, ctrlWord_getLsbD hc, CtrlFields.setModeBits, distinct, distinct']
  next hother =>
    simp only [not_or] at hother
    simp [ctrlWord_getLsbD hc, CtrlFields.setModeBits, hother]

end Sys2Proof.Machine
end

section
/-! PROOFS. A step, seen without the ports: nothing, a command started, or a transport call completed. What each of the
three keeps, every step keeps. -/

namespace Sys2Proof.Machine

open Sys2Proof

/-- The state with other contents of the command port, of the response port with its log, and of the transport's
script. -/
def State.setPorts (s : State) (rsp : Option Response) (log : List Response) (caller : List CmdWord)
    (script : List Reply) : State :=
  { s with rsp := rsp, rspLog := log, caller := caller, script := script }

/-- What a step does once the ports have moved. -/
inductive Action (s : State) : State → Prop where
  | nothing : Action s s
  | started (cfg : Bool) (e : Effect) (hb : s.busy = false) (h : Starts s cfg e) : Action s (startWrite cfg e s)
  | called (t : State) (hb : s.busy = true) (h : Completed s t) : Action s t

/-- The acceptance of a command word moves the ports and possibly starts a command. -/
theorem Performed.action {s t : State} (h : Performed s true t) (hb : s.busy = false) :
    ∃ rsp log, Action (s.setPorts rsp log s.caller s.script) t := by
  cases h with
  | rejected st _ _ => exact ⟨_, _, .nothing⟩
  | answered v _ => exact ⟨_, _, .nothing⟩
  | started cfg e h => exact ⟨s.rsp, s.rspLog, .started cfg e hb h⟩

/-- Every step moves the ports and then does one of the three things. -/
theorem step_action {s t : State} (h : step s = .next t) :
    ∃ rsp log caller script, Action (s.setPorts rsp log caller script) t := by
  cases step_stepped h with
  | waited _ _ => exact ⟨none, s.rspLog, s.caller, s.script, .nothing⟩
  | served sc _ _ => exact ⟨none, s.rspLog, s.caller, sc, .nothing⟩
  | accepted w rest _ hb _ _ hp =>
    obtain ⟨rsp, log, haction⟩ := hp.action hb
    exact ⟨rsp, log, rest, s.script, haction⟩
  | called sc _ hb _ _ hp => exact ⟨none, s.rspLog, s.caller, sc, .called t hb hp⟩

/-- An invariant that does not speak of the ports is kept by every step when the start of a command and the completion
of a call keep it. -/
theorem step_keeps {P : State → Prop}
    (hports : ∀ s rsp log caller script, P s → P (s.setPorts rsp log caller script))
    (hstart : ∀ s cfg e, P s → s.busy = false → Starts s cfg e → P (startWrite cfg e s))
    (hcall : ∀ s t, P s → s.busy = true → Completed s t → P t)
    {s t : State} (hs : P s) (h : step s = .next t) : P t := by
  obtain ⟨rsp, log, caller, script, haction⟩ := step_action h
  have hs' := hports s rsp log caller script hs
  cases haction with
  | nothing => exact hs'
  | started cfg e hb hstarts => exact hstart _ cfg e hs' hb hstarts
  | called _ hb hcompleted => exact hcall _ t hs' hb hcompleted

/-! The end of a frame (42_sequencer.md R133). -/

theorem advance_of_lt {s : State} (h : s.seq.idx + 1 < s.seq.words.length) :
    advance s = { s with seq := ⟨s.seq.words, s.seq.idx + 1, .frameBegin⟩ } := by
  simp [advance, h]

theorem advance_of_last {s : State} (h : ¬s.seq.idx + 1 < s.seq.words.length) : advance s = finish s := by
  simp [advance, h]

@[simp] theorem advance_params (s : State) : (advance s).params = s.params := by
  unfold advance
  split
  · rfl
  · exact finish_params s

theorem Completed.params {s t : State} (h : Completed s t) : t.params = s.params := by
  cases h with
  | configured _ => rfl
  | begun _ => rfl
  | sentHigh _ _ _ => rfl
  | sentLow _ _ _ => rfl
  | ended d _ _ => simp

/-- A completed call leaves the registers and the pending copy as they are, or commits (10_state.md R24). -/
theorem Completed.registers {s t : State} (h : Completed s t) :
    (t.arch = s.arch ∧ t.pending = s.pending) ∨ (t.arch = s.pending.getD s.arch ∧ t.pending = none) := by
  cases h with
  | configured _ => exact .inl ⟨rfl, rfl⟩
  | begun _ => exact .inl ⟨rfl, rfl⟩
  | sentHigh _ _ _ => exact .inl ⟨rfl, rfl⟩
  | sentLow _ _ _ => exact .inl ⟨rfl, rfl⟩
  | ended d _ _ =>
    unfold advance
    split
    · exact .inl ⟨rfl, rfl⟩
    · exact .inr ⟨by simp, by simp⟩

end Sys2Proof.Machine
end

section
/-! PROOFS. The sequencer invariant (10_state.md R25, R26, R29 I8). -/

namespace Sys2Proof.Machine

open Sys2Proof

/-- A command has at least one word and at most fourteen (41_write_commands.md R118). -/
theorem Starts.words_length {s : State} {cfg : Bool} {e : Effect} (h : Starts s cfg e) :
    0 < e.words.length ∧ e.words.length ≤ 14 := by
  cases h with
  | init => exact ⟨by simp [initEffect], by simp [initEffect]⟩
  | setfreq c v _ => exact ⟨by simp [setfreqEffect], by simp [setfreqEffect]⟩
  | setphase c x _ => exact ⟨by simp [setphaseEffect], by simp [setphaseEffect]⟩
  | setmode m _ => exact ⟨by simp [setmodeEffect], by simp [setmodeEffect]⟩
  | setfsel c _ => exact ⟨by simp [setfselEffect], by simp [setfselEffect]⟩
  | setpsel c _ => exact ⟨by simp [setpselEffect], by simp [setpselEffect]⟩
  | reset hold _ => unfold resetEffect; split <;> [skip; split] <;> simp

/-- The invariant of a running command before a frame. -/
theorem SequencerInv.beforeFrame {s : State} (hb : s.busy = true) (hpending : s.pending.isSome = true)
    (hidx : s.seq.idx < s.seq.words.length) (hlen : s.seq.words.length ≤ 14) (hph : s.seq.ph = .frameBegin)
    (hframe : 0 < s.seq.idx → s.frame = false) : SequencerInv s := by
  constructor <;> simp [hb, hpending, hidx, hlen, hph, Phase.inFrame]
  exact hframe

/-- The invariant of a running command inside a frame. -/
theorem SequencerInv.insideFrame {s : State} (hb : s.busy = true) (hpending : s.pending.isSome = true)
    (hidx : s.seq.idx < s.seq.words.length) (hlen : s.seq.words.length ≤ 14) (hph : s.seq.ph.inFrame = true)
    (hframe : s.frame = true) (hsent : ∀ w, currentWord s = some w → s.rxBytes = bytesSent s.seq.ph w) :
    SequencerInv s where
  atRest := by simp [hb]
  pendingHeld := fun _ => hpending
  position := fun _ => ⟨fun hidle => by simp [hidle, Phase.inFrame] at hph, hidx, hlen⟩
  cfgFirst := fun _ hcfg => by simp [hcfg, Phase.inFrame] at hph
  framed := fun _ _ => hframe
  unframed := fun _ hbegin => by simp [hbegin, Phase.inFrame] at hph
  sent := fun _ _ => hsent

/-- A command starts before its first frame, or before its `configure()`. -/
theorem SequencerInv.startWrite {s : State} {cfg : Bool} {e : Effect} (h : Starts s cfg e) :
    SequencerInv (startWrite cfg e s) := by
  obtain ⟨hpos, hlen⟩ := h.words_length
  cases cfg with
  | true => constructor <;> simp [hpos, hlen, Phase.inFrame]
  | false => exact .beforeFrame rfl rfl hpos hlen rfl (by simp)

/-- The end of a frame leads to the next frame of the command, or to rest. -/
theorem SequencerInv.advance {s : State} (hb : s.busy = true) (hpending : s.pending.isSome = true)
    (hlen : s.seq.words.length ≤ 14) (hframe : s.frame = false) : SequencerInv (advance s) := by
  by_cases hnext : s.seq.idx + 1 < s.seq.words.length
  · rw [advance_of_lt hnext]
    exact .beforeFrame hb hpending hnext hlen rfl fun _ => hframe
  · rw [advance_of_last hnext]
    constructor <;> simp [hframe]

/-- Each completed call leads from a position of 10_state.md R25 to the next one. -/
theorem SequencerInv.completed {s t : State} (hs : SequencerInv s) (hb : s.busy = true) (h : Completed s t) :
    SequencerInv t := by
  obtain ⟨-, hidx, hlen⟩ := hs.position hb
  have hpending := hs.pendingHeld hb
  cases h with
  | configured hph =>
    have hzero : s.seq.idx = 0 := hs.cfgFirst hb hph
    exact .beforeFrame hb hpending hidx hlen rfl (by simp [hzero])
  | begun hph => exact .insideFrame hb hpending hidx hlen rfl rfl fun _ _ => rfl
  | sentHigh w hph hw =>
    have hin : s.seq.ph.inFrame = true := by rw [hph]; rfl
    have hsent : s.rxBytes = [] := by simpa [hph, bytesSent] using hs.sent hb hin w hw
    refine .insideFrame hb hpending hidx hlen rfl (hs.framed hb hin) fun v hv => ?_
    obtain rfl : w = v := Option.some.inj (hw.symm.trans hv)
    simp [hsent, bytesSent]
  | sentLow w hph hw =>
    have hin : s.seq.ph.inFrame = true := by rw [hph]; rfl
    have hsent : s.rxBytes = [highByte w] := by simpa [hph, bytesSent] using hs.sent hb hin w hw
    refine .insideFrame hb hpending hidx hlen rfl (hs.framed hb hin) fun v hv => ?_
    obtain rfl : w = v := Option.some.inj (hw.symm.trans hv)
    simp [hsent, bytesSent]
  | ended d hph hd => exact .advance hb hpending hlen rfl

theorem SequencerInv.setPorts {s : State} (hs : SequencerInv s) (rsp : Option Response) (log : List Response)
    (caller : List CmdWord) (script : List Reply) : SequencerInv (s.setPorts rsp log caller script) :=
  ⟨hs.atRest, hs.pendingHeld, hs.position, hs.cfgFirst, hs.framed, hs.unframed, hs.sent⟩

/-- Settles O31: the start of a command takes the first position, and each completed call leads to the next one of
10_state.md R25 or back to rest. -/
theorem sequencerInvariantIsKept : Obligations.SequencerInvariantIsKept := by
  unfold Obligations.SequencerInvariantIsKept
  intro s t hs h
  exact step_keeps (fun _ rsp log caller script hs => hs.setPorts rsp log caller script)
    (fun _ _ _ _ _ hstarts => .startWrite hstarts) (fun _ _ hs hb hcompleted => hs.completed hb hcompleted) hs h

end Sys2Proof.Machine
end

section
/-! PROOFS. The register invariants I1 to I7 (10_state.md R29): the control word is the word of the shadow registers'
fields, and every write command keeps it so. -/

namespace Sys2Proof.Machine

open Sys2Proof

/-- No field set, the control word with which INIT begins (41_write_commands.md R111). -/
def noFields : CtrlFields where
  fselect := false
  pselect := false
  reset := false
  sleep1 := false
  sleep12 := false
  opbiten := false
  div2 := false
  mode := false

/-- The fields that the control word has when it agrees with the shadow registers and the chip's reset is `held`
(10_state.md R19, R21). -/
def shadowFields (p : Params) (a : Arch) (held : Bool) : CtrlFields :=
  CtrlFields.setModeBits
    { noFields with fselect := a.fselActive.toBool, pselect := a.pselActive.toBool, reset := held }
    (p.modeTable.bits a.modeCache)

/-- I2 and I3: a channel's words are those of its operands (10_state.md R13, R14). -/
structure Channel.Quantized (p : Params) (r : Channel) : Prop where
  freq : r.freqWord = qf p r.freqUser
  phase : r.phaseWord = qp p r.phaseUser

section
variable {p : Params} {a : Arch}

theorem ArchInv.quantized (h : ArchInv p a) (c : Chan) : (a.chan c).Quantized p := ⟨h.freqWord c, h.phaseWord c⟩

/-- I4 to I7 determine the control word but for the bit `RESET`. -/
theorem ArchInv.cw_eq (h : ArchInv p a) (hc : p.Conditions) :
    a.cw = ctrlWord p (shadowFields p a (resetHeld p a.cw)) := by
  have hmode : (ctrlFieldsOf p a.cw).modeBits = p.modeTable.bits a.modeCache := h.modeCoherent
  have hfields : ctrlFieldsOf p a.cw = shadowFields p a (resetHeld p a.cw) := by
    simp [shadowFields, CtrlFields.setModeBits, ← hmode, CtrlFields.modeBits, ctrlFieldsOf, ← h.fselMirror,
      ← h.pselMirror, resetHeld]
  rw [← hfields, ctrlWord_of_fixed_bits hc h.b28Set h.hlbClear h.unnamedClear]

/-- I2 and I3 with a control word of the shadow registers' fields are I2 to I7. -/
theorem ArchInv.of_cw_eq (hc : p.Conditions) (hchan : ∀ c, (a.chan c).Quantized p) {held : Bool}
    (hcw : a.cw = ctrlWord p (shadowFields p a held)) : ArchInv p a where
  freqWord := fun c => (hchan c).freq
  phaseWord := fun c => (hchan c).phase
  fselMirror := by
    rw [hcw]
    exact congrArg CtrlFields.fselect (ctrlFieldsOf_ctrlWord hc _)
  pselMirror := by
    rw [hcw]
    exact congrArg CtrlFields.pselect (ctrlFieldsOf_ctrlWord hc _)
  b28Set := by rw [hcw, ctrlWord_getLsbD_b28 hc]
  modeCoherent := by
    rw [hcw, modeBitsOf_ctrlWord hc]
    rfl
  hlbClear := by rw [hcw, ctrlWord_getLsbD_hlb hc]
  unnamedClear := fun n hn => by rw [hcw, ctrlWord_getLsbD_unnamed hc _ hn]

/-! What the write commands commit (41_write_commands.md R111 to R117). -/

theorem ArchInv.setChan (h : ArchInv p a) (hc : p.Conditions) {c : Chan} {r : Channel} (hr : r.Quantized p) :
    ArchInv p (a.setChan c r) := by
  refine .of_cw_eq hc (fun c' => ?_) (held := resetHeld p a.cw) (by simpa [shadowFields] using h.cw_eq hc)
  rw [Arch.chan_setChan]
  split
  · exact hr
  · exact h.quantized c'

theorem ArchInv.setmode (h : ArchInv p a) (hc : p.Conditions) (m : Mode) : ArchInv p (setmodeEffect p m a).arch :=
  .of_cw_eq hc h.quantized ((congrArg (applyMode p · m) (h.cw_eq hc)).trans (applyMode_ctrlWord hc _ m))

theorem ArchInv.setfsel (h : ArchInv p a) (hc : p.Conditions) (c : Chan) : ArchInv p (setfselEffect p c a).arch :=
  .of_cw_eq hc h.quantized ((congrArg (applySel p · .freq c) (h.cw_eq hc)).trans (applySel_freq_ctrlWord hc _ c))

theorem ArchInv.setpsel (h : ArchInv p a) (hc : p.Conditions) (c : Chan) : ArchInv p (setpselEffect p c a).arch :=
  .of_cw_eq hc h.quantized ((congrArg (applySel p · .phase c) (h.cw_eq hc)).trans (applySel_phase_ctrlWord hc _ c))

theorem ArchInv.setReset (h : ArchInv p a) (hc : p.Conditions) (r : Bool) :
    ArchInv p { a with cw := applyReset p a.cw r } :=
  .of_cw_eq hc h.quantized ((congrArg (applyReset p · r) (h.cw_eq hc)).trans (applyReset_ctrlWord hc _ r))

end

/-- RESET commits the bit `RESET` and nothing else; the pulse ends with the reset released (41_write_commands.md
R117). -/
theorem resetEffect_arch (p : Params) (hold : Bool) (a : Arch) :
    (resetEffect p hold a).arch = { a with cw := applyReset p a.cw hold } := by
  cases hold with
  | true => rfl
  | false => cases h : resetHeld p a.cw <;> simp [resetEffect, h]

/-! The control words of INIT (41_write_commands.md R111). -/

section
variable {p : Params}

theorem initCw_eq (hc : p.Conditions) : initCw p = ctrlWord p noFields := by
  apply word16_ext
  intro n _
  simp [initCw, ctrlWord_getLsbD hc, noFields]

theorem initCwHeld_eq (hc : p.Conditions) : initCwHeld p = ctrlWord p { noFields with reset := true } := by
  rw [initCwHeld, initCw_eq hc, applyReset_ctrlWord hc]

theorem initCwReleased_eq (hc : p.Conditions) : initCwReleased p = ctrlWord p noFields := by
  rw [initCwReleased, initCwHeld_eq hc, applyReset_ctrlWord hc]
  rfl

theorem initCwSine_eq (hc : p.Conditions) : initCwSine p = ctrlWord p (noFields.setModeBits p.modeTable.sine) := by
  rw [initCwSine, initCwReleased_eq hc, applyMode_ctrlWord hc]
  rfl

theorem initCwFsel_eq (hc : p.Conditions) : initCwFsel p = ctrlWord p (noFields.setModeBits p.modeTable.sine) := by
  rw [initCwFsel, initCwSine_eq hc, applySel_freq_ctrlWord hc]
  rfl

theorem initCwPsel_eq (hc : p.Conditions) : initCwPsel p = ctrlWord p (noFields.setModeBits p.modeTable.sine) := by
  rw [initCwPsel, initCwFsel_eq hc, applySel_phase_ctrlWord hc]
  rfl

theorem defaultChannel_quantized (p : Params) : (defaultChannel p).Quantized p := ⟨rfl, rfl⟩

theorem ArchInv.init (hc : p.Conditions) : ArchInv p (initEffect p).arch := by
  refine .of_cw_eq hc (fun c => ?_) (held := false) (initCwPsel_eq hc)
  cases c
  · exact defaultChannel_quantized p
  · exact defaultChannel_quantized p

end

/-- What a command started after INIT, or INIT itself, will commit. -/
theorem Starts.archInv {s : State} {cfg : Bool} {e : Effect} (hs : RegisterInv s) (h : Starts s cfg e) :
    e.arch.initDone = true ∧ ArchInv s.params e.arch := by
  have hc := Params.conditions_of_wf hs.paramsWf
  cases h with
  | init => exact ⟨rfl, .init hc⟩
  | setfreq c v hi =>
    have ha := hs.committed hi
    exact ⟨(setChan_initDone _ _ _).trans hi, ha.setChan hc ⟨rfl, ha.phaseWord c⟩⟩
  | setphase c x hi =>
    have ha := hs.committed hi
    exact ⟨(setChan_initDone _ _ _).trans hi, ha.setChan hc ⟨ha.freqWord c, rfl⟩⟩
  | setmode m hi => exact ⟨hi, (hs.committed hi).setmode hc m⟩
  | setfsel c hi => exact ⟨hi, (hs.committed hi).setfsel hc c⟩
  | setpsel c hi => exact ⟨hi, (hs.committed hi).setpsel hc c⟩
  | reset hold hi =>
    rw [resetEffect_arch]
    exact ⟨hi, (hs.committed hi).setReset hc hold⟩

theorem RegisterInv.setPorts {s : State} (hs : RegisterInv s) (rsp : Option Response) (log : List Response)
    (caller : List CmdWord) (script : List Reply) : RegisterInv (s.setPorts rsp log caller script) :=
  ⟨hs.paramsWf, hs.committed, hs.pendingOk⟩

theorem RegisterInv.startWrite {s : State} {cfg : Bool} {e : Effect} (hs : RegisterInv s) (h : Starts s cfg e) :
    RegisterInv (startWrite cfg e s) where
  paramsWf := hs.paramsWf
  committed := hs.committed
  pendingOk := fun a ha => by
    obtain rfl : e.arch = a := Option.some.inj ha
    exact h.archInv (s := s) hs

/-- Completing a call keeps the registers, or commits a pending copy that meets the invariants. -/
theorem RegisterInv.completed {s t : State} (hs : RegisterInv s) (h : Completed s t) : RegisterInv t := by
  rcases h.registers with ⟨harch, hpending⟩ | ⟨harch, hpending⟩
  · constructor <;> rw [h.params]
    · exact hs.paramsWf
    · exact harch ▸ hs.committed
    · exact hpending ▸ hs.pendingOk
  · constructor <;> rw [h.params]
    · exact hs.paramsWf
    · rw [harch]
      cases hp : s.pending with
      | none => exact hs.committed
      | some a => exact fun _ => (hs.pendingOk a hp).2
    · simp [hpending]

/-- Settles O32: a started command's pending copy is the invariants' closed form of the control word with fields
replaced, and a completed call changes the registers only by committing it. -/
theorem registerInvariantIsKept : Obligations.RegisterInvariantIsKept := by
  unfold Obligations.RegisterInvariantIsKept
  intro s t hs h
  exact step_keeps (fun _ rsp log caller script hs => hs.setPorts rsp log caller script)
    (fun _ _ _ hs _ hstarts => hs.startWrite hstarts) (fun _ _ hs _ hcompleted => hs.completed hcompleted) hs h

end Sys2Proof.Machine
end

section
/-! PROOFS. What rests on the registers: `INIT_DONE` (10_state.md R22), the lifecycle (10_state.md R27), the accessors of
the control word's mirrors (40_register_model.md R102 to R104). -/

namespace Sys2Proof.Machine

open Sys2Proof

/-! `INIT_DONE`. -/

/-- A completed call keeps `INIT_DONE`, for every pending copy has it set (10_state.md R22). -/
theorem Completed.initDone {s t : State} (hs : RegisterInv s) (hi : s.arch.initDone = true) (h : Completed s t) :
    t.arch.initDone = true := by
  rcases h.registers with ⟨harch, -⟩ | ⟨harch, -⟩
  · rw [harch, hi]
  · rw [harch]
    cases hp : s.pending with
    | none => exact hi
    | some a => exact (hs.pendingOk a hp).1

/-- A completed call leaves the response port as it is, or answers OK at the end of the command. -/
theorem Completed.rsp {s t : State} (h : Completed s t) : t.rsp = s.rsp ∨ t.rsp = some ⟨.ok, 0#32⟩ := by
  cases h with
  | configured _ => exact .inl rfl
  | begun _ => exact .inl rfl
  | sentHigh _ _ _ => exact .inl rfl
  | sentLow _ _ _ => exact .inl rfl
  | ended d _ _ =>
    unfold advance
    split
    · exact .inl rfl
    · exact .inr (finish_rsp _)

/-- ERR_NOT_INIT is answered before INIT alone (60_exceptions.md R153). -/
theorem step_errNotInit {s t : State} {v : BitVec 32} (h : step s = .next t) (hrsp : t.rsp = some ⟨.errNotInit, v⟩) :
    s.arch.initDone = false := by
  cases step_stepped h with
  | waited _ _ => simp at hrsp
  | served _ _ _ => simp at hrsp
  | called _ _ _ _ _ hp => rcases hp.rsp with hr | hr <;> simp [hr] at hrsp
  | accepted w rest _ _ _ _ hp =>
    cases hp with
    | rejected st _ hi =>
      rw [reject_rsp] at hrsp
      injection hrsp with hrsp
      exact hi (congrArg Response.status hrsp)
    | answered _ _ => simp at hrsp
    | started _ _ _ => simp at hrsp

/-- `INIT_DONE` together with the invariants that keep it. -/
def InitDoneInv (s : State) : Prop := RegisterInv s ∧ s.arch.initDone = true

theorem step_initDoneInv {s t : State} (hs : InitDoneInv s) (h : step s = .next t) : InitDoneInv t := by
  refine step_keeps ?_ ?_ ?_ hs h
  · rintro s rsp log caller script ⟨hs, hi⟩
    exact ⟨hs.setPorts rsp log caller script, hi⟩
  · rintro s cfg e ⟨hs, hi⟩ _ hstarts
    exact ⟨hs.startWrite hstarts, hi⟩
  · rintro s t ⟨hs, hi⟩ _ hcompleted
    exact ⟨hs.completed hcompleted, hcompleted.initDone hs hi⟩

/-- Settles O38: a commit writes a pending copy, whose `INIT_DONE` is 1, and only a validation that finds `INIT_DONE` 0
answers ERR_NOT_INIT. -/
theorem initDoneIsNeverCleared : Obligations.InitDoneIsNeverCleared := by
  unfold Obligations.InitDoneIsNeverCleared
  intro s t hs hi h
  obtain ⟨-, hi'⟩ := step_initDoneInv ⟨hs, hi⟩ h
  refine ⟨hi', fun hrsp => ?_⟩
  exact Bool.false_ne_true ((step_errNotInit h hrsp).symm.trans hi)

/-! The lifecycle. -/

/-- The lifecycle state is read from `INIT_DONE` and the bit `RESET` alone. -/
theorem lifecycle_congr {p : Params} {a b : Arch} (hi : b.initDone = a.initDone)
    (hr : resetHeld p b.cw = resetHeld p a.cw) : lifecycle p b = lifecycle p a := by
  simp [lifecycle, hi, hr]

theorem lifecycle_setChan (p : Params) (a : Arch) (c : Chan) (r : Channel) :
    lifecycle p (a.setChan c r) = lifecycle p a :=
  lifecycle_congr (setChan_initDone a c r) (by rw [setChan_cw])

section
variable {p : Params} (hc : p.Conditions) (a : Arch)
include hc

theorem resetHeld_applyReset (cw : Word16) (r : Bool) : resetHeld p (applyReset p cw r) = r := by
  simp [resetHeld, applyReset_getLsbD _ _ _ _ (hc.position_lt (i := p.bit.reset) (by simp [BitPos.toList]))]

theorem resetHeld_applyMode (cw : Word16) (m : Mode) : resetHeld p (applyMode p cw m) = resetHeld p cw := by
  have distinct := hc.bit_nodup
  simp only [BitPos.toList, List.nodup_cons, List.mem_cons, List.not_mem_nil, or_false, not_or] at distinct
  exact applyMode_getLsbD_other p cw m p.bit.reset (by simp [distinct])

theorem resetHeld_applySel (cw : Word16) (which : Which) (c : Chan) :
    resetHeld p (applySel p cw which c) = resetHeld p cw := by
  have hlt : selBit p which < 16 := hc.position_lt (by cases which <;> simp [selBit, BitPos.toList])
  have hne : selBit p which ≠ p.bit.reset := by
    have distinct := hc.bit_nodup
    simp only [BitPos.toList, List.nodup_cons, List.mem_cons, List.not_mem_nil, or_false, not_or] at distinct
    cases which <;> simp [selBit, distinct]
  rw [resetHeld, applySel_getLsbD _ _ _ _ _ hlt, if_neg (Ne.symm hne)]
  rfl

theorem lifecycle_init : lifecycle p (initEffect p).arch = .active := by
  have hreleased : resetHeld p (initCwPsel p) = false := by
    rw [initCwPsel_eq hc, resetHeld_ctrlWord hc]
    rfl
  simp [lifecycle, initEffect, hreleased]

theorem lifecycle_reset (hold : Bool) (hi : a.initDone = true) :
    lifecycle p (resetEffect p hold a).arch = if hold then .parked else .active := by
  simp [lifecycle, resetEffect_arch, resetHeld_applyReset hc, hi]

/-- Every command but INIT and RESET leaves the lifecycle state where it is. -/
theorem lifecycle_perform_of_other {w : CmdWord} (hinit : (cmdOp w).toNat ≠ 0) (hreset : (cmdOp w).toNat ≠ 11)
    (hv : validate a.initDone w = none) : lifecycle p (perform p a w).arch = lifecycle p a := by
  match hop : (cmdOp w).toNat with
  | 0 => exact absurd hop hinit
  | 1 => simp [perform, hv, hop, writes, setfreqEffect, lifecycle_setChan]
  | 3 => simp [perform, hv, hop, writes, setphaseEffect, lifecycle_setChan]
  | 2 | 4 | 6 | 8 | 10 => simp [perform, hv, hop, returns]
  | 5 =>
    simp only [perform, hv, hop]
    exact lifecycle_congr rfl (resetHeld_applyMode hc _ _)
  | 7 | 9 =>
    simp only [perform, hv, hop]
    exact lifecycle_congr rfl (resetHeld_applySel hc _ _ _)
  | 11 => exact absurd hop hreset
  | op + 12 => simp [validate, hop] at hv

end

/-- What a valid command word has passed (60_exceptions.md R150). -/
theorem validate_eq_none {initDone : Bool} {w : CmdWord} (h : validate initDone w = none) :
    mustBeZeroBroken w = false ∧ ((cmdOp w).toNat ≠ 0 → initDone = true) := by
  unfold validate at h
  split at h
  · contradiction
  split at h
  · contradiction
  next hzero =>
  split at h
  · contradiction
  split at h
  · contradiction
  next hready =>
    exact ⟨by simpa using hzero, fun hop => by simpa [hop] using hready⟩

/-- The words of RESET 0 and RESET 1, the only ones of their operation code whose must-be-zero bits are zero
(30_encoding.md R69). -/
theorem reset_word {w : CmdWord} (hop : cmdOp w = 0xB#4) (hzero : mustBeZeroBroken w = false) :
    w = if (cmdArg w).getLsbD 0 then 0xB100000000#40 else 0xB000000000#40 := by
  obtain ⟨hval, harg⟩ : cmdVal w = 0#32 ∧ (cmdArg w).extractLsb' 1 3 = 0#3 := by
    simpa [mustBeZeroBroken, hop] using hzero
  have hcases : ∀ x : BitVec 4, x.extractLsb' 1 3 = 0#3 → x = if x.getLsbD 0 then 1#4 else 0#4 := by decide
  calc w = cmdWordOf (cmdOp w) (cmdArg w) (cmdVal w) := (Laws.cmdWordOf_fields w).symm
    _ = cmdWordOf 0xB#4 (if (cmdArg w).getLsbD 0 then 1#4 else 0#4) 0#32 := by rw [hop, hval, ← hcases _ harg]
    _ = _ := by cases (cmdArg w).getLsbD 0 <;> rfl

/-- Settles O50: the lifecycle state is `INIT_DONE` and the bit `RESET` of the control word, which INIT and RESET alone
write. -/
theorem lifecycleTransitions : Obligations.LifecycleTransitions := by
  unfold Obligations.LifecycleTransitions
  intro p a w hp
  have hc := Params.conditions_of_wf hp
  cases hv : validate a.initDone w with
  | some st => simp [perform, hv]
  | none =>
    obtain ⟨hzero, hready⟩ := validate_eq_none hv
    rw [if_pos rfl]
    by_cases hinit : cmdOp w = 0#4
    · simp [perform, hv, hinit, writes, lifecycle_init hc]
    rw [if_neg hinit]
    by_cases hreset : cmdOp w = 0xB#4
    · have hperform : (perform p a w).arch = (resetEffect p ((cmdArg w).getLsbD 0) a).arch := by
        simp [perform, hv, hreset, writes]
      have hword := reset_word hreset hzero
      rw [hperform, lifecycle_reset hc a _ (hready (by simp [hreset]))]
      cases hhold : (cmdArg w).getLsbD 0
      · rw [hhold] at hword
        simp [hword]
      · rw [hhold] at hword
        simp [hword]
    · have hinit' : (cmdOp w).toNat ≠ 0 := fun h => hinit (BitVec.eq_of_toNat_eq h)
      have hreset' : (cmdOp w).toNat ≠ 11 := fun h => hreset (BitVec.eq_of_toNat_eq h)
      have hpark : w ≠ 0xB100000000#40 := by
        rintro rfl
        exact hreset rfl
      have hunpark : w ≠ 0xB000000000#40 := by
        rintro rfl
        exact hreset rfl
      rw [if_neg hpark, if_neg hunpark, lifecycle_perform_of_other hc a hinit' hreset' hv]

/-! The accessors of the mirrors. -/

theorem chanValue_eq (c : Chan) : chanValue c = (BitVec.ofBool c.toBool).setWidth 32 := by cases c <;> rfl

/-- The five modes, in the order of the mode table (30_encoding.md R66). -/
def allModes : List Mode := [.off, .sine, .square1, .square2, .triangle]

theorem mem_allModes (m : Mode) : m ∈ allModes := by cases m <;> simp [allModes]

/-- The mode table tells the modes apart (40_register_model.md R96). -/
theorem modeTable_bits_injective {p : Params} (hc : p.Conditions) {m m' : Mode}
    (h : p.modeTable.bits m = p.modeTable.bits m') : m = m' := by
  have hnodup : (allModes.map p.modeTable.bits).Nodup := hc.table
  exact List.inj_on_of_nodup_map hnodup (mem_allModes m) (mem_allModes m') h

theorem needInit_of_initDone {s : State} (hi : s.arch.initDone = true) (k : Result) : needInit s k = k := if_pos hi

/-- Settles O55: an accessor answers its shadow register, which the register invariant ties to the control word. -/
theorem accessorsMirrorTheControlWord : Obligations.AccessorsMirrorTheControlWord := by
  unfold Obligations.AccessorsMirrorTheControlWord
  intro s hs hi
  have hc := Params.conditions_of_wf hs.paramsWf
  have ha := hs.committed hi
  refine ⟨?_, ?_, fun m hm => ?_⟩
  · refine ⟨answer (chanValue s.arch.fselActive) s, needInit_of_initDone hi _, ?_⟩
    rw [ha.fselMirror, ← chanValue_eq, answer_rsp]
  · refine ⟨answer (chanValue s.arch.pselActive) s, needInit_of_initDone hi _, ?_⟩
    rw [ha.pselMirror, ← chanValue_eq, answer_rsp]
  · refine ⟨answer (modeValue s.arch.modeCache) s, needInit_of_initDone hi _, ?_⟩
    rw [modeTable_bits_injective hc (hm.symm.trans ha.modeCoherent), answer_rsp]
    rfl

end Sys2Proof.Machine
end

section
/-! PROOFS. The chip's coherence (10_state.md R29 I9): what the receiver makes of the words of a command
(20_memory.md R57; 30_encoding.md R70 to R72). -/

namespace Sys2Proof

/-! The frequency and phase formats (30_encoding.md R71, R72). -/

section
variable {p : Params} (hc : p.Conditions) (c : Chan)
include hc

theorem freqHalfWord_format (h : Half) : freqHalfWord p c h &&& 0xC000#16 = p.sel.freq c := by
  apply word16_ext
  intro n hn
  rw [BitVec.getLsbD_and, freqHalfWord_getLsbD]
  by_cases hlow : n < 14
  · simp [hc.freq_low c hlow, show (0xC000#16).getLsbD n = false by revert hlow; revert n; decide]
  · have hmask : (0xC000#16).getLsbD n = true := by revert hlow; revert n; decide
    simp [hmask, BitVec.getLsbD_of_ge h n (by omega)]

theorem freqHalfWord_half (h : Half) : (freqHalfWord p c h).extractLsb' 0 14 = h := by
  apply BitVec.eq_of_getLsbD_eq
  intro n hn
  rw [BitVec.getLsbD_extractLsb', Nat.zero_add, freqHalfWord_getLsbD, hc.freq_low c hn]
  simp [hn, show n < 16 by omega]

theorem phWord_format (q : PhaseWord) : phWord p c q &&& 0xF000#16 = p.sel.phase c := by
  apply word16_ext
  intro n hn
  rw [BitVec.getLsbD_and, phWord_getLsbD]
  by_cases hlow : n < 12
  · simp [hc.phase_low c (show n < 13 by omega), show (0xF000#16).getLsbD n = false by revert hlow; revert n; decide]
  · have hmask : (0xF000#16).getLsbD n = true := by revert hlow; revert n; decide
    simp [hmask, BitVec.getLsbD_of_ge q n (by omega)]

theorem phWord_phase (q : PhaseWord) : (phWord p c q).extractLsb' 0 12 = q := by
  apply BitVec.eq_of_getLsbD_eq
  intro n hn
  rw [BitVec.getLsbD_extractLsb', Nat.zero_add, phWord_getLsbD, hc.phase_low c (show n < 13 by omega)]
  simp [hn, show n < 16 by omega]

end

end Sys2Proof

namespace Sys2Proof.Machine

open Sys2Proof

/-! The receiver on the words of a command, no load in progress (20_memory.md R57). -/

section
variable {p : Params} (hc : p.Conditions) {d : Dev} (hload : d.load = none)
include hc hload

theorem receive_ctrlWord (f : CtrlFields) : receive p (ctrlWord p f) d = { d with ctrl := some (ctrlWord p f) } := by
  rw [receive_of_ctrlFormat hc (ctrlWord_ctrlFormat hc f)]
  simp [receiveControl, hload]

theorem receive_phWord (c : Chan) (q : PhaseWord) :
    receive p (phWord p c q) d = d.setChan c { d.chan c with phase := some q } := by
  rw [receive_of_phaseFormat hc (phWord_format hc c q), phWord_phase hc]
  cases c <;> simp [receivePhase, hload, Dev.setChan]

/-- The first word of a frequency load, after a control word with `B28` set. -/
theorem receive_floWord (hb28 : b28Asserted p d = true) (c : Chan) (t : TuningWord) :
    receive p (floWord p c t) d
      = { d.setChan c { d.chan c with freqLo := some (t.extractLsb' 0 14) } with load := some c } := by
  have hword : floWord p c t = freqHalfWord p c (t.extractLsb' 0 14) := rfl
  rw [hword, receive_of_freqFormat hc (freqHalfWord_format hc c _), freqHalfWord_half hc]
  simp [receiveFreq, hb28, hload]

omit hload in
/-- The second word of a frequency load. -/
theorem receive_fhiWord (hb28 : b28Asserted p d = true) {c : Chan} (hload : d.load = some c) (t : TuningWord) :
    receive p (fhiWord p c t) d
      = { d.setChan c { d.chan c with freqHi := some (t.extractLsb' 14 14) } with load := none } := by
  have hword : fhiWord p c t = freqHalfWord p c (t.extractLsb' 14 14) := rfl
  rw [hword, receive_of_freqFormat hc (freqHalfWord_format hc c _), freqHalfWord_half hc]
  simp [receiveFreq, hb28, hload]

omit hload in
theorem b28Asserted_of_ctrlWord {f : CtrlFields} (hctrl : d.ctrl = some (ctrlWord p f)) : b28Asserted p d = true := by
  simp [b28Asserted, hctrl, ctrlWord_getLsbD_b28 hc]

/-- The two words of a frequency load together. -/
theorem receiveAll_frequency (hb28 : b28Asserted p d = true) (c : Chan) (t : TuningWord) :
    receiveAll p [floWord p c t, fhiWord p c t] d
      = d.setChan c { d.chan c with
          freqLo := some (t.extractLsb' 0 14)
          freqHi := some (t.extractLsb' 14 14) } := by
  simp only [receiveAll, receive_floWord hc hload hb28]
  rw [receive_fhiWord hc (c := c) (by simpa [b28Asserted] using hb28) rfl]
  cases c <;> simp [Dev.setChan, Dev.chan, hload]

/-- The fourteen words of INIT bring any chip without a load in progress to the same registers (41_write_commands.md
R111). -/
theorem receiveAll_init :
    receiveAll p (initEffect p).words d =
      { ctrl := some (initCwPsel p)
        ch0 := ⟨some ((qf p p.defaultFreq).extractLsb' 0 14), some ((qf p p.defaultFreq).extractLsb' 14 14),
          some (qp p p.defaultPhase)⟩
        ch1 := ⟨some ((qf p p.defaultFreq).extractLsb' 0 14), some ((qf p p.defaultFreq).extractLsb' 14 14),
          some (qp p p.defaultPhase)⟩
        load := none
        fault := d.fault } := by
  simp only [initEffect, initCw_eq hc, initCwHeld_eq hc, initCwReleased_eq hc, initCwSine_eq hc, initCwFsel_eq hc,
    initCwPsel_eq hc, receiveAll]
  simp [receive_ctrlWord hc, receive_floWord hc, receive_fhiWord hc, receive_phWord hc, b28Asserted,
    ctrlWord_getLsbD_b28 hc, hload, Dev.setChan, Dev.chan]

end

/-- The receiver's registers of a channel after those of a channel were replaced. -/
theorem Dev.chan_setChan (d : Dev) (c c' : Chan) (r : DevChan) :
    (d.setChan c r).chan c' = if c' = c then r else d.chan c' := by
  cases c <;> cases c' <;> rfl

/-! Coherence (10_state.md R29 I9) under the words of each command. -/

/-- The chip's registers of a channel hold the words of the block's. -/
structure ChannelCoherent (r : Channel) (x : DevChan) : Prop where
  freqLo : x.freqLo = some (r.freqWord.extractLsb' 0 14)
  freqHi : x.freqHi = some (r.freqWord.extractLsb' 14 14)
  phase : x.phase = some r.phaseWord

section
variable {p : Params} (hc : p.Conditions) {a : Arch} {d : Dev}
include hc

/-- INIT makes any chip coherent that has no load in progress and no fault. -/
theorem Coherent.init (hload : d.load = none) (hfault : d.fault = false) :
    Coherent (initEffect p).arch (receiveAll p (initEffect p).words d) := by
  rw [receiveAll_init hc hload]
  exact ⟨rfl, fun c => by cases c <;> rfl, fun c => by cases c <;> rfl, fun c => by cases c <;> rfl, rfl, hfault⟩

/-- A control word takes the chip to any state of the block that differs in the control word and its mirrors only. -/
theorem Coherent.control (h : Coherent a d) {a' : Arch} {f : CtrlFields} (hcw : a'.cw = ctrlWord p f)
    (hchan : ∀ c, a'.chan c = a.chan c) : Coherent a' (receive p a'.cw d) := by
  rw [hcw, receive_ctrlWord hc h.noLoad, ← hcw]
  exact ⟨rfl, fun c => hchan c ▸ h.freqLo c, fun c => hchan c ▸ h.freqHi c, fun c => hchan c ▸ h.phase c, h.noLoad,
    h.noFault⟩

omit hc in
theorem Coherent.channel (h : Coherent a d) (c : Chan) : ChannelCoherent (a.chan c) (d.chan c) :=
  ⟨h.freqLo c, h.freqHi c, h.phase c⟩

omit hc in
/-- Coherence is kept where the block and the chip replace the registers of one channel by agreeing ones. -/
theorem Coherent.setChan (h : Coherent a d) (c : Chan) {r : Channel} {x : DevChan} (hx : ChannelCoherent r x) :
    Coherent (a.setChan c r) (d.setChan c x) := by
  have hchan (c' : Chan) : ChannelCoherent ((a.setChan c r).chan c') ((d.setChan c x).chan c') := by
    rw [Dev.chan_setChan, Arch.chan_setChan]
    split
    · exact hx
    · exact h.channel c'
  exact ⟨by simp [h.ctrl], fun c' => (hchan c').freqLo, fun c' => (hchan c').freqHi, fun c' => (hchan c').phase,
    by simp [h.noLoad], by simp [h.noFault]⟩

/-- SETFREQ: the control word, which the chip already has, and the load of the channel's two halves. -/
theorem Coherent.setfreq (h : Coherent a d) (ha : ArchInv p a) (c : Chan) (v : FreqOperand) :
    Coherent (setfreqEffect p c v a).arch (receiveAll p (setfreqEffect p c v a).words d) := by
  have hcw := ha.cw_eq hc
  have hctrl : receive p a.cw d = d := by rw [hcw, receive_ctrlWord hc h.noLoad, ← hcw, ← h.ctrl]
  have hb28 : b28Asserted p d = true := b28Asserted_of_ctrlWord hc (h.ctrl.trans (congrArg some hcw))
  have hwords : receiveAll p (setfreqEffect p c v a).words d
      = receiveAll p [floWord p c (qf p v), fhiWord p c (qf p v)] d := congrArg _ hctrl
  rw [hwords, receiveAll_frequency hc h.noLoad hb28]
  exact h.setChan c ⟨rfl, rfl, h.phase c⟩

/-- SETPHASE: the phase word alone. -/
theorem Coherent.setphase (h : Coherent a d) (c : Chan) (x : PhaseOperand) :
    Coherent (setphaseEffect p c x a).arch (receiveAll p (setphaseEffect p c x a).words d) := by
  simp only [setphaseEffect, receiveAll, receive_phWord hc h.noLoad]
  exact h.setChan c ⟨h.freqLo c, h.freqHi c, rfl⟩

/-- RESET: one control word, or the pulse of two. -/
theorem Coherent.reset (h : Coherent a d) (ha : ArchInv p a) (hold : Bool) :
    Coherent (resetEffect p hold a).arch (receiveAll p (resetEffect p hold a).words d) := by
  have write {b : Arch} {e : Dev} (hb : Coherent b e) (hchan : ∀ c, a.chan c = b.chan c) (r : Bool) :
      Coherent { a with cw := applyReset p a.cw r } (receive p (applyReset p a.cw r) e) :=
    hb.control hc ((ha.setReset hc r).cw_eq hc) hchan
  have single (r : Bool) : Coherent { a with cw := applyReset p a.cw r } (receive p (applyReset p a.cw r) d) :=
    write h (fun _ => rfl) r
  cases hold with
  | true => exact single true
  | false =>
    cases hheld : resetHeld p a.cw with
    | true => simpa [resetEffect, hheld, receiveAll] using single false
    | false => simpa [resetEffect, hheld, receiveAll] using write (single true) (fun _ => rfl) false

end

/-- What a started command's words make of a chip that is coherent, or before INIT has neither load nor fault. -/
theorem Starts.coherent {s : State} {cfg : Bool} {e : Effect} {d : Dev} (hs : RegisterInv s) (h : Starts s cfg e)
    (hload : d.load = none) (hfault : d.fault = false) (hd : s.arch.initDone = true → Coherent s.arch d) :
    Coherent e.arch (receiveAll s.params e.words d) := by
  have hc := Params.conditions_of_wf hs.paramsWf
  cases h with
  | init => exact .init hc hload hfault
  | setfreq c v hi => exact (hd hi).setfreq hc (hs.committed hi) c v
  | setphase c x hi => exact (hd hi).setphase hc c x
  | setmode m hi => exact (hd hi).control hc (((hs.committed hi).setmode hc m).cw_eq hc) fun _ => rfl
  | setfsel c hi => exact (hd hi).control hc (((hs.committed hi).setfsel hc c).cw_eq hc) fun _ => rfl
  | setpsel c hi => exact (hd hi).control hc (((hs.committed hi).setpsel hc c).cw_eq hc) fun _ => rfl
  | reset hold hi => exact (hd hi).reset hc (hs.committed hi) hold

/-! The steps. -/

theorem ChipInv.setPorts {s : State} (hs : ChipInv s) (rsp : Option Response) (log : List Response)
    (caller : List CmdWord) (script : List Reply) : ChipInv (s.setPorts rsp log caller script) :=
  ⟨hs.noFaultNow, hs.beforeInit, hs.atRest, hs.running⟩

theorem ChipInv.startWrite {s : State} {cfg : Bool} {e : Effect} (hr : RegisterInv s) (hs : ChipInv s)
    (hb : s.busy = false) (h : Starts s cfg e) : ChipInv (startWrite cfg e s) where
  noFaultNow := hs.noFaultNow
  beforeInit := nofun
  atRest := nofun
  running := fun _ a ha => by
    obtain rfl : e.arch = a := Option.some.inj ha
    exact h.coherent (s := s) hr (hs.beforeInit hb) hs.noFaultNow (hs.atRest hb)

/-- The words still to be sent are the current one and those after it. -/
theorem unsentWords_eq {s : State} {w : Word16} (hw : currentWord s = some w) :
    unsentWords s = w :: s.seq.words.drop (s.seq.idx + 1) := by
  obtain ⟨hidx, hget⟩ := List.getElem?_eq_some_iff.1 hw
  rw [unsentWords, List.drop_eq_getElem_cons hidx, hget]

/-- The chip without a fault at the end of a list of words has none before it. -/
theorem fault_eq_false_of_receiveAll {p : Params} {ws : List Word16} {d : Dev}
    (h : (receiveAll p ws d).fault = false) : d.fault = false := by
  cases hd : d.fault with
  | false => rfl
  | true => exact absurd (receiveAll_fault_sticky p ws d hd) (by simp [h])

/-- The end of a frame takes the chip one word further, and the last one of a command to coherence with the state
committed in the same step. -/
theorem ChipInv.advance {s : State} {a : Arch} (hb : s.busy = true) (hpending : s.pending = some a)
    (h : Coherent a (receiveAll s.params (s.seq.words.drop (s.seq.idx + 1)) s.dev)) : ChipInv (advance s) := by
  have hfault : s.dev.fault = false := fault_eq_false_of_receiveAll h.noFault
  by_cases hnext : s.seq.idx + 1 < s.seq.words.length
  · rw [advance_of_lt hnext]
    refine ⟨hfault, fun h => ?_, fun h => ?_, fun _ a' ha' => ?_⟩
    · simp [hb] at h
    · simp [hb] at h
    · obtain rfl : a = a' := Option.some.inj (hpending.symm.trans ha')
      exact h
  · rw [advance_of_last hnext]
    rw [List.drop_eq_nil_of_le (Nat.not_lt.1 hnext)] at h
    have hrest : Coherent (finish s).arch (finish s).dev := by simpa [hpending, receiveAll] using h
    exact ⟨hrest.noFault, fun _ => hrest.noLoad, fun _ _ => hrest, nofun⟩

theorem ChipInv.completed {s t : State} (hp : s.params.wf = true) (hq : SequencerInv s) (hs : ChipInv s)
    (hb : s.busy = true) (h : Completed s t) : ChipInv t := by
  cases h with
  | configured _ => exact ⟨hs.noFaultNow, hs.beforeInit, hs.atRest, hs.running⟩
  | begun _ => exact ⟨hs.noFaultNow, hs.beforeInit, hs.atRest, hs.running⟩
  | sentHigh _ _ _ => exact ⟨hs.noFaultNow, hs.beforeInit, hs.atRest, hs.running⟩
  | sentLow _ _ _ => exact ⟨hs.noFaultNow, hs.beforeInit, hs.atRest, hs.running⟩
  | ended d hph hd =>
    obtain ⟨-, hidx, -⟩ := hq.position hb
    obtain ⟨w, hw⟩ : ∃ w, currentWord s = some w := ⟨_, List.getElem?_eq_getElem hidx⟩
    obtain ⟨a, ha⟩ := Option.isSome_iff_exists.1 (hq.pendingHeld hb)
    have hbytes : s.rxBytes = [highByte w, lowByte w] := by
      simpa [hph, bytesSent] using hq.sent hb (by rw [hph]; rfl) w hw
    obtain rfl : receive s.params w s.dev = d := by
      rw [hbytes, deliver_bytes (s := doEndFrame s) hp w] at hd
      exact congrArg State.dev (Host.Outcome.next.inj hd)
    refine .advance hb ha ?_
    have hcoherent := hs.running hb a ha
    rw [unsentWords_eq hw] at hcoherent
    exact hcoherent

/-- The invariants that the chip's coherence rests on, with it. -/
structure CoherenceInv (s : State) : Prop where
  registers : RegisterInv s
  sequencer : SequencerInv s
  chip : ChipInv s

/-- Settles O33: the words of a started command lead the chip to coherence with the pending copy, and each frame's end
hands over one of them. -/
theorem chipCoherenceIsKept : Obligations.ChipCoherenceIsKept := by
  unfold Obligations.ChipCoherenceIsKept
  intro s t hr hq hs h
  have kept : CoherenceInv t := by
    refine step_keeps ?_ ?_ ?_ (CoherenceInv.mk hr hq hs) h
    · rintro s rsp log caller script ⟨hr, hq, hs⟩
      exact ⟨hr.setPorts rsp log caller script, hq.setPorts rsp log caller script, hs.setPorts rsp log caller script⟩
    · rintro s cfg e ⟨hr, _, hs⟩ hb hstarts
      exact ⟨hr.startWrite hstarts, .startWrite hstarts, hs.startWrite hr hb hstarts⟩
    · rintro s t ⟨hr, hq, hs⟩ hb hcompleted
      exact ⟨hr.completed hcompleted, hq.completed hb hcompleted, hs.completed hr.paramsWf hq hb hcompleted⟩
  exact kept.chip

end Sys2Proof.Machine
end

section
/-! PROOFS. The state at power-up (10_state.md R30; 70_reset_and_hazards.md R171). -/

namespace Sys2Proof.Machine

open Sys2Proof

/-! Each invariant at power-up: `INIT_DONE` is 0, no command runs, the trace and the receiver are empty. -/

section
variable (p : Params) (cmds : List CmdWord) (script : List Reply)

theorem powerUp_registers (hp : p.wf = true) : RegisterInv (powerUp p cmds script) where
  paramsWf := hp
  committed := nofun
  pendingOk := nofun

theorem powerUp_sequencer : SequencerInv (powerUp p cmds script) where
  atRest := fun _ => ⟨rfl, rfl, nofun⟩
  pendingHeld := nofun
  position := nofun
  cfgFirst := nofun
  framed := nofun
  unframed := nofun
  sent := nofun

theorem powerUp_chip : ChipInv (powerUp p cmds script) where
  noFaultNow := rfl
  beforeInit := fun _ => rfl
  atRest := nofun
  running := nofun

theorem powerUp_trace : TraceInv (powerUp p cmds script) := ⟨⟨[], none⟩, rfl, rfl, rfl⟩

end

/-- Settles O35: each invariant by its own lemma. -/
theorem invariantsHoldAtPowerUp : Obligations.InvariantsHoldAtPowerUp := by
  unfold Obligations.InvariantsHoldAtPowerUp
  refine ⟨default_wf, fun p cmds script hp => ?_⟩
  exact ⟨powerUp_registers p cmds script hp, powerUp_sequencer p cmds script, powerUp_chip p cmds script,
    powerUp_trace p cmds script⟩

/-- A block that is not initialised is in the lifecycle state UNINIT (10_state.md R27). -/
theorem lifecycle_of_not_initDone (p : Params) {a : Arch} (h : a.initDone = false) : lifecycle p a = .uninit := by
  simp [lifecycle, h]

/-- Settles O39: the fields of the power-up state, and the lifecycle from `INIT_DONE`. -/
theorem powerUpStateIsUninitialised : Obligations.PowerUpStateIsUninitialised := by
  unfold Obligations.PowerUpStateIsUninitialised
  exact ⟨reset_initDone, reset_busy, reset_seq, reset_pending, rfl, rfl, reset_trace, rfl, rfl, reset_params, reset_dev,
    lifecycle_of_not_initDone _ reset_initDone⟩

end Sys2Proof.Machine
end

section
/-! PROOFS. The five emitted formats as the chip performs them (20_memory.md R57; 30_encoding.md R70 to R72). -/

namespace Sys2Proof.Machine

open Sys2Proof

/-! What a frequency word does, one equation for each branch of 20_memory.md R57. -/

theorem b28Asserted_eq (p : Params) (d : Dev) :
    b28Asserted p d = (d.ctrl.map (·.getLsbD p.bit.b28)).getD false := by
  unfold b28Asserted
  cases d.ctrl <;> rfl

section
variable {p : Params} {c : Chan} {d : Dev}

theorem receiveFreq_of_not_b28 (hb28 : b28Asserted p d = false) (h : Half) : receiveFreq p c h d = raiseFault d := by
  simp [receiveFreq, hb28]

theorem receiveFreq_of_no_load (hb28 : b28Asserted p d = true) (hload : d.load = none) (h : Half) :
    receiveFreq p c h d = { d.setChan c { d.chan c with freqLo := some h } with load := some c } := by
  simp [receiveFreq, hb28, hload]

theorem receiveFreq_of_own_load (hb28 : b28Asserted p d = true) (hload : d.load = some c) (h : Half) :
    receiveFreq p c h d = { d.setChan c { d.chan c with freqHi := some h } with load := none } := by
  simp [receiveFreq, hb28, hload]

theorem receiveFreq_of_other_load (hb28 : b28Asserted p d = true) {c' : Chan} (hload : d.load = some c') (hne : c' ≠ c)
    (h : Half) : receiveFreq p c h d = raiseFault d := by
  simp [receiveFreq, hb28, hload, hne]

end

/-- Settles O22: the decoder's five formats are the receiver's branches. -/
theorem emittedFormatsRefineTheReceiver : Obligations.EmittedFormatsRefineTheReceiver := by
  unfold Obligations.EmittedFormatsRefineTheReceiver
  intro s w i hp hd
  exact exec_of_decodeW16 hp hd

/-- Settles O19: the receiver's first branch. -/
theorem controlWordIsReceived : Obligations.ControlWordIsReceived := by
  unfold Obligations.ControlWordIsReceived
  intro s f
  rw [exec, execW16Ctrl, receiveControl]

/-- Settles O20: by `B28`, then by the load in progress. -/
theorem frequencyHalfIsReceived : Obligations.FrequencyHalfIsReceived := by
  unfold Obligations.FrequencyHalfIsReceived
  intro s h
  rw [exec, exec, execW16Freq0, execW16Freq1]
  have hb28 := b28Asserted_eq s.params s.dev
  cases hctrl : s.dev.ctrl.map (·.getLsbD s.params.bit.b28) with
  | none => simp [receiveFreq_of_not_b28 (hb28.trans (by rw [hctrl]; rfl)), raiseFault]
  | some b28 =>
    rw [hctrl, Option.getD_some] at hb28
    cases b28 with
    | false => simp [receiveFreq_of_not_b28 hb28, raiseFault]
    | true =>
      cases hload : s.dev.load with
      | none => simp [receiveFreq_of_no_load hb28 hload, Dev.setChan, Dev.chan]
      | some c =>
        cases c <;>
          simp [receiveFreq_of_own_load hb28 hload, receiveFreq_of_other_load hb28 hload, Dev.setChan, Dev.chan,
            raiseFault, hload]

/-- Settles O21: the receiver's last branch, for each channel. -/
theorem phaseWordIsReceived : Obligations.PhaseWordIsReceived := by
  unfold Obligations.PhaseWordIsReceived
  intro s q
  rw [exec, exec, execW16Phase0, execW16Phase1, receivePhase, receivePhase]
  exact ⟨rfl, rfl⟩

end Sys2Proof.Machine
end

section
/-! PROOFS. Runs from power-up: no step stops, and every state keeps the chip's coherence (10_state.md R29). -/

namespace Sys2Proof.Machine

open Sys2Proof

/-! Progress: a step from a position that 10_state.md R25 lists does not stop. -/

theorem SequencerInv.completeCall_next {s : State} (hs : SequencerInv s) (hb : s.busy = true) :
    ∃ t, completeCall s = .next t := by
  obtain ⟨hph, hidx, -⟩ := hs.position hb
  have hword : currentWord s ≠ none := by simpa [currentWord] using hidx
  rcases completeCall_cases s with ⟨t, ht, -⟩ | ⟨-, hidle | ⟨-, hnone⟩⟩
  · exact ⟨t, ht⟩
  · exact absurd hidle hph
  · exact absurd hnone hword

theorem SequencerInv.serve_next {s : State} (hs : SequencerInv s) (hb : s.busy = true) : ∃ t, serve s = .next t := by
  unfold serve
  split
  next => exact hs.completeCall_next hb
  next => exact ⟨_, rfl⟩
  next rest _ => exact (hs.setPorts s.rsp s.rspLog s.caller rest).completeCall_next hb
  next => exact ⟨_, rfl⟩

theorem acceptNext_next (s : State) : ∃ t, acceptNext s = .next t := by
  unfold acceptNext
  split
  next => exact ⟨_, rfl⟩
  next w rest _ =>
    obtain ⟨t, ht, -⟩ := accept_performed w { s with caller := rest }
    exact ⟨t, ht⟩

theorem SequencerInv.step_next {s : State} (hs : SequencerInv s) : ∃ t, step s = .next t := by
  unfold step microStep
  split
  next hb => exact (hs.setPorts none s.rspLog s.caller s.script).serve_next hb
  next => exact acceptNext_next (clearRsp s)

/-- Where an invariant is kept by every step and shuts out every stop, no run stops and each ends in the invariant. -/
theorem run_next_of_keeps {P : State → Prop} (hnext : ∀ s, P s → ∃ t, step s = .next t)
    (hkeeps : ∀ s t, P s → step s = .next t → P t) (k : Nat) {s : State} (hs : P s) :
    ∃ t, run k s = .next t ∧ P t := by
  induction k generalizing s with
  | zero => exact ⟨s, run_zero s, hs⟩
  | succ k ih =>
    obtain ⟨u, hu⟩ := hnext s hs
    rw [run_succ_of_next hu]
    exact ih (hkeeps s u hs hu)

/-! The chip's coherence and what it rests on, along a run. -/

theorem CoherenceInv.step_keeps {s t : State} (hs : CoherenceInv s) (h : step s = .next t) : CoherenceInv t where
  registers := registerInvariantIsKept s t hs.registers h
  sequencer := sequencerInvariantIsKept s t hs.sequencer h
  chip := chipCoherenceIsKept s t hs.registers hs.sequencer hs.chip h

theorem powerUp_coherenceInv (p : Params) (cmds : List CmdWord) (script : List Reply) (hp : p.wf = true) :
    CoherenceInv (powerUp p cmds script) :=
  ⟨powerUp_registers p cmds script hp, powerUp_sequencer p cmds script, powerUp_chip p cmds script⟩

/-- Settles O37: the coherence invariant holds at power-up, every step keeps it, and its sequencer part shuts out every
stop. -/
theorem noRunFromPowerUpFaultsTheChip : Obligations.NoRunFromPowerUpFaultsTheChip := by
  unfold Obligations.NoRunFromPowerUpFaultsTheChip
  intro p cmds script k hp
  obtain ⟨t, hrun, ht⟩ := run_next_of_keeps (P := CoherenceInv) (fun _ hs => hs.sequencer.step_next)
    (fun _ _ hs h => hs.step_keeps h) k (powerUp_coherenceInv p cmds script hp)
  exact ⟨t, hrun, ht.chip.noFaultNow, ht.chip.atRest⟩

end Sys2Proof.Machine
end

section
/-! PROOFS. Encoding and decoding are inverse to each other (30_encoding.md R79): first the command words, by their
three fields, then the emitted words, by their formats. -/

namespace Sys2Proof

open Sys2Proof.Laws

/-! Command words (30_encoding.md R62). -/

theorem needZero_eq_ok {cond : Bool} {i j : Instr} : needZero cond i = .ok j ↔ cond = true ∧ i = j := by
  cases cond <;> simp [needZero]

theorem cmdWordOf_eq {w : CmdWord} {op arg : BitVec 4} {val : BitVec 32} (hop : cmdOp w = op) (harg : cmdArg w = arg)
    (hval : cmdVal w = val) : cmdWordOf op arg val = w := by
  rw [← hop, ← harg, ← hval, cmdWordOf_fields]

/-- A phase operand fills the low half of `VAL` and leaves its high half zero (30_encoding.md R68). -/
theorem phaseOperand_low (x : PhaseOperand) : (x.setWidth 32).extractLsb' 0 16 = x := by
  apply BitVec.eq_of_getLsbD_eq
  intro n hn
  simp [hn, show n < 32 by omega]

theorem phaseOperand_high (x : PhaseOperand) : (x.setWidth 32).extractLsb' 16 16 = 0#16 := by
  apply BitVec.eq_of_getLsbD_eq
  intro n hn
  simp

theorem setWidth_of_high_zero {val : BitVec 32} (h : val.extractLsb' 16 16 = 0#16) :
    (val.extractLsb' 0 16).setWidth 32 = val := by
  apply BitVec.eq_of_getLsbD_eq
  intro n hn
  by_cases hlow : n < 16
  · simp [hn, hlow]
  · have hbit := congrArg (·.getLsbD (n - 16)) h
    have hclear : val.getLsbD n = false := by
      simpa [show n - 16 < 16 by omega, show 16 + (n - 16) = n by omega] using hbit
    simp [hlow, hclear]

/-- The operand of RESET is bit 0 of `ARG`, the other three bits being zero (30_encoding.md R69). -/
theorem holdArg_of_high_zero : ∀ arg : BitVec 4, arg.extractLsb' 1 3 = 0#3 →
    arg = (BitVec.ofBool (arg.getLsbD 0)).setWidth 4 := by decide

theorem decode_encode_of_command (p : Params) {i : Instr} (hi : i.isCommand = true) :
    decode p (encode p i) = .ok i := by
  cases i with
  | init | getmode | getfsel | getpsel => rfl
  | setfreq c v => simp [encode, decode, decodeCmd]
  | getfreq c | getphase c | setmode c | setfsel c | setpsel c => simp [encode, decode, decodeCmd, needZero]
  | setphase c x => simp [encode, decode, decodeCmd, needZero, phaseOperand_low, phaseOperand_high]
  | reset hold => cases hold <;> rfl
  | w16Ctrl f | w16Freq0 h | w16Freq1 h | w16Phase0 q | w16Phase1 q => contradiction

theorem encode_of_decodeCmd (p : Params) {w : CmdWord} {i : Instr} (h : decodeCmd w = .ok i) :
    encode p i = .cmd40 w := by
  match hop : (cmdOp w).toNat with
  | 0 | 6 | 8 | 10 =>
    simp only [decodeCmd, hop, needZero_eq_ok, Bool.and_eq_true, beq_iff_eq] at h
    obtain ⟨⟨harg, hval⟩, rfl⟩ := h
    exact congrArg FetchWord.cmd40 (cmdWordOf_eq (BitVec.eq_of_toNat_eq hop) harg hval)
  | 1 =>
    simp only [decodeCmd, hop, Decoded.ok.injEq] at h
    subst h
    exact congrArg FetchWord.cmd40 (cmdWordOf_eq (BitVec.eq_of_toNat_eq hop) rfl rfl)
  | 2 | 4 | 5 | 7 | 9 =>
    simp only [decodeCmd, hop, needZero_eq_ok, beq_iff_eq] at h
    obtain ⟨hval, rfl⟩ := h
    exact congrArg FetchWord.cmd40 (cmdWordOf_eq (BitVec.eq_of_toNat_eq hop) rfl hval)
  | 3 =>
    simp only [decodeCmd, hop, needZero_eq_ok, beq_iff_eq] at h
    obtain ⟨hhigh, rfl⟩ := h
    exact congrArg FetchWord.cmd40 (cmdWordOf_eq (BitVec.eq_of_toNat_eq hop) rfl (setWidth_of_high_zero hhigh).symm)
  | 11 =>
    simp only [decodeCmd, hop, needZero_eq_ok, Bool.and_eq_true, beq_iff_eq] at h
    obtain ⟨⟨harg, hval⟩, rfl⟩ := h
    exact congrArg FetchWord.cmd40 (cmdWordOf_eq (BitVec.eq_of_toNat_eq hop) (holdArg_of_high_zero _ harg) hval)
  | op + 12 => simp [decodeCmd, hop] at h

/-! Emitted words (30_encoding.md R70 to R72). -/

/-- The instruction that carries a half to a channel's frequency register. -/
def Instr.w16Freq : Chan → Half → Instr
  | .ch0 => .w16Freq0
  | .ch1 => .w16Freq1

/-- The instruction that carries a phase word to a channel's phase register. -/
def Instr.w16Phase : Chan → PhaseWord → Instr
  | .ch0 => .w16Phase0
  | .ch1 => .w16Phase1

theorem encode_w16Freq (p : Params) (c : Chan) (h : Half) :
    encode p (.w16Freq c h) = .w16 (freqHalfWord p c h) := by cases c <;> rfl

theorem encode_w16Phase (p : Params) (c : Chan) (q : PhaseWord) :
    encode p (.w16Phase c q) = .w16 (phWord p c q) := by cases c <;> rfl

theorem w16Freq_ne_w16Ctrl (c : Chan) (h : Half) (f : CtrlFields) : Instr.w16Freq c h ≠ .w16Ctrl f := by
  cases c <;> exact Instr.noConfusion

theorem w16Phase_ne_w16Ctrl (c : Chan) (q : PhaseWord) (f : CtrlFields) : Instr.w16Phase c q ≠ .w16Ctrl f := by
  cases c <;> exact Instr.noConfusion

/-- Bits 15:14 of a word of a frequency format are those of the channel's selector. -/
theorem topCode_of_freqFormat {p : Params} {c : Chan} {w : Word16} (h : w &&& 0xC000#16 = p.sel.freq c) :
    topCode w = topCode (p.sel.freq c) := by
  rw [← h, topCode_and_of_mask rfl rfl]

section
variable {p : Params} (hc : p.Conditions)
include hc

/-- Bits 15:14 of a word of a phase format are those of both phase selectors. -/
theorem topCode_of_phaseFormat {c : Chan} {w : Word16} (h : w &&& 0xF000#16 = p.sel.phase c) :
    topCode w = topCode p.sel.phase0 := by
  rw [← topCode_and_of_mask (m := 0xF000#16) rfl rfl w, h]
  cases c
  · rfl
  · exact hc.phase_top

/-- The three kinds of register have different codes (20_memory.md R41). -/
theorem topCode_distinct (c : Chan) :
    topCode p.sel.ctrl ≠ topCode (p.sel.freq c) ∧ topCode p.sel.ctrl ≠ topCode p.sel.phase0
      ∧ topCode (p.sel.freq c) ≠ topCode p.sel.phase0 := by
  have codes := hc.codes
  simp only [List.nodup_cons, List.mem_cons, List.not_mem_nil, or_false, not_or] at codes
  obtain ⟨⟨ctrl_ne_freq0, ctrl_ne_freq1, ctrl_ne_phase⟩, ⟨-, freq0_ne_phase⟩, freq1_ne_phase, -⟩ := codes
  cases c
  · exact ⟨ctrl_ne_freq0, ctrl_ne_phase, freq0_ne_phase⟩
  · exact ⟨ctrl_ne_freq1, ctrl_ne_phase, freq1_ne_phase⟩

theorem freqSelector_ne : p.sel.freq1 ≠ p.sel.freq0 := fun h => by
  have codes := hc.codes
  simp [h] at codes

/-! The decoder on a word of each format: the tests before the format's own fail. -/

omit hc in
theorem decodeW16_of_ctrlFormat {w : Word16} (h : w &&& ~~~(ctrlFieldMask p) = ctrlFixedBits p) :
    decodeW16 p w = .ok (.w16Ctrl (ctrlFieldsOf p w)) := if_pos h

theorem decodeW16_of_freqFormat {c : Chan} {w : Word16} (h : w &&& 0xC000#16 = p.sel.freq c) :
    decodeW16 p w = .ok (.w16Freq c (w.extractLsb' 0 14)) := by
  obtain ⟨ctrl_ne_freq, -, -⟩ := topCode_distinct hc c
  have not_ctrl : w &&& ~~~(ctrlFieldMask p) ≠ ctrlFixedBits p := fun hctrl =>
    ctrl_ne_freq ((topCode_of_ctrlFormat hc hctrl).symm.trans (topCode_of_freqFormat h))
  rw [decodeW16, if_neg not_ctrl]
  cases c with
  | ch0 => exact if_pos h
  | ch1 =>
    have not_freq0 : w &&& 0xC000#16 ≠ p.sel.freq0 := fun h0 => freqSelector_ne hc (h.symm.trans h0)
    rw [if_neg not_freq0]
    exact if_pos h

theorem decodeW16_of_phaseFormat {c : Chan} {w : Word16} (h : w &&& 0xF000#16 = p.sel.phase c) :
    decodeW16 p w = .ok (.w16Phase c (w.extractLsb' 0 12)) := by
  have htop := topCode_of_phaseFormat hc h
  obtain ⟨-, ctrl_ne_phase, -⟩ := topCode_distinct hc c
  have not_ctrl : w &&& ~~~(ctrlFieldMask p) ≠ ctrlFixedBits p := fun hctrl =>
    ctrl_ne_phase ((topCode_of_ctrlFormat hc hctrl).symm.trans htop)
  have not_freq (c' : Chan) : w &&& 0xC000#16 ≠ p.sel.freq c' := fun hfreq => by
    obtain ⟨-, -, freq_ne_phase⟩ := topCode_distinct hc c'
    exact freq_ne_phase ((topCode_of_freqFormat hfreq).symm.trans htop)
  have not_freq0 : w &&& 0xC000#16 ≠ p.sel.freq0 := not_freq .ch0
  have not_freq1 : w &&& 0xC000#16 ≠ p.sel.freq1 := not_freq .ch1
  rw [decodeW16, if_neg not_ctrl, if_neg not_freq0, if_neg not_freq1]
  cases c with
  | ch0 => exact if_pos h
  | ch1 =>
    have not_phase0 : w &&& 0xF000#16 ≠ p.sel.phase0 := fun h0 => hc.phase_ne (h0.symm.trans h)
    rw [if_neg not_phase0]
    exact if_pos h

/-! The decoder on the words that the block composes. -/

theorem decodeW16_ctrlWord (f : CtrlFields) : decodeW16 p (ctrlWord p f) = .ok (.w16Ctrl f) := by
  rw [decodeW16_of_ctrlFormat (ctrlWord_ctrlFormat hc f), ctrlFieldsOf_ctrlWord hc]

theorem decodeW16_freqHalfWord (c : Chan) (h : Half) : decodeW16 p (freqHalfWord p c h) = .ok (.w16Freq c h) := by
  rw [decodeW16_of_freqFormat hc (freqHalfWord_format hc c h), freqHalfWord_half hc]

theorem decodeW16_phWord (c : Chan) (q : PhaseWord) : decodeW16 p (phWord p c q) = .ok (.w16Phase c q) := by
  rw [decodeW16_of_phaseFormat hc (phWord_format hc c q), phWord_phase hc]

theorem decode_encode_of_emitted {i : Instr} (hi : i.isCommand = false) : decode p (encode p i) = .ok i := by
  cases i with
  | w16Ctrl f => exact decodeW16_ctrlWord hc f
  | w16Freq0 h => exact decodeW16_freqHalfWord hc .ch0 h
  | w16Freq1 h => exact decodeW16_freqHalfWord hc .ch1 h
  | w16Phase0 q => exact decodeW16_phWord hc .ch0 q
  | w16Phase1 q => exact decodeW16_phWord hc .ch1 q
  | _ => contradiction

/-! A word of a format is the word that the block composes from its parts. -/

omit hc in
theorem freqHalfWord_of_freqFormat {c : Chan} {w : Word16} (h : w &&& 0xC000#16 = p.sel.freq c) :
    freqHalfWord p c (w.extractLsb' 0 14) = w := by
  apply word16_ext
  intro n hn
  rw [freqHalfWord_getLsbD, ← h, BitVec.getLsbD_and, BitVec.getLsbD_extractLsb']
  by_cases hlow : n < 14
  · simp only [hn, hlow, decide_true, Bool.true_and, Nat.zero_add]
    cases w.getLsbD n <;> simp
  · simp [hlow, show (0xC000#16).getLsbD n = true by revert hlow; revert n; decide]

omit hc in
theorem phWord_of_phaseFormat {c : Chan} {w : Word16} (h : w &&& 0xF000#16 = p.sel.phase c) :
    phWord p c (w.extractLsb' 0 12) = w := by
  apply word16_ext
  intro n hn
  rw [phWord_getLsbD, ← h, BitVec.getLsbD_and, BitVec.getLsbD_extractLsb']
  by_cases hlow : n < 12
  · simp only [hn, hlow, decide_true, Bool.true_and, Nat.zero_add]
    cases w.getLsbD n <;> simp
  · simp [hlow, show (0xF000#16).getLsbD n = true by revert hlow; revert n; decide]

theorem encode_of_decodeW16 {w : Word16} {i : Instr} (h : decodeW16 p w = .ok i) : encode p i = .w16 w := by
  unfold decodeW16 at h
  split at h
  next hw =>
    obtain rfl := Decoded.ok.inj h
    exact congrArg FetchWord.w16 (ctrlWord_ctrlFieldsOf hc hw)
  split at h
  next hw =>
    obtain rfl := Decoded.ok.inj h
    exact congrArg FetchWord.w16 (freqHalfWord_of_freqFormat (c := .ch0) hw)
  split at h
  next hw =>
    obtain rfl := Decoded.ok.inj h
    exact congrArg FetchWord.w16 (freqHalfWord_of_freqFormat (c := .ch1) hw)
  split at h
  next hw =>
    obtain rfl := Decoded.ok.inj h
    exact congrArg FetchWord.w16 (phWord_of_phaseFormat (c := .ch0) hw)
  split at h
  next hw =>
    obtain rfl := Decoded.ok.inj h
    exact congrArg FetchWord.w16 (phWord_of_phaseFormat (c := .ch1) hw)
  next => contradiction

end

/-- Settles O2: a command word gives back its fields, an emitted word is of its own format and of no earlier one. -/
theorem decodeInvertsEncode : Obligations.DecodeInvertsEncode := by
  unfold Obligations.DecodeInvertsEncode
  intro p i hp
  cases hi : i.isCommand with
  | true => exact decode_encode_of_command p hi
  | false => exact decode_encode_of_emitted (Params.conditions_of_wf hp) hi

/-- Settles O3: a command word is made of its fields, an emitted word of its format's parts. -/
theorem encodeInvertsDecode : Obligations.EncodeInvertsDecode := by
  unfold Obligations.EncodeInvertsDecode
  intro p w i hp h
  cases w with
  | cmd40 w => exact encode_of_decodeCmd p h
  | w16 w => exact encode_of_decodeW16 (Params.conditions_of_wf hp) h

end Sys2Proof
end

section
/-! PROOFS. The decoder is the encoding tables (30_encoding.md R78): a row covers exactly the words of the instructions
with its mnemonic. -/

namespace Sys2Proof

open Sys2Proof.Laws

/-! Tables of rows, of any word length. -/

/-- A table whose rows exclude each other: no two share a mnemonic, and of the bits that two rows both fix they fix one
differently. -/
structure RowsDistinct {n : Nat} (table : List (EncRow n)) : Prop where
  mnemonic : ∀ r ∈ table, ∀ r' ∈ table, r.mnemonic = r'.mnemonic → r = r'
  fixedBits : ∀ r ∈ table, ∀ r' ∈ table, r.pat &&& r'.mask = r'.pat &&& r.mask → r = r'

theorem cmdTable_distinct : RowsDistinct cmdTable := ⟨by decide, by decide⟩

theorem w16Table_distinct : RowsDistinct w16Table := ⟨by decide, by decide⟩

/-- Two rows that cover one word agree on the bits that both fix. -/
theorem fixedBits_agree {n : Nat} {r r' : EncRow n} {w : BitVec n} (h : r.covers w = true) (h' : r'.covers w = true) :
    r.pat &&& r'.mask = r'.pat &&& r.mask := by
  simp only [EncRow.covers, beq_iff_eq] at h h'
  rw [← h, ← h', BitVec.and_assoc, BitVec.and_assoc, BitVec.and_comm r.mask]

/-- A decoder is its table when the words of each row decode to an instruction of the row's mnemonic, and a word that
decodes is covered by the row of its mnemonic. -/
theorem decoder_is_table {n : Nat} {table : List (EncRow n)} {decoder : BitVec n → Decoded}
    (distinct : RowsDistinct table)
    (decodes : ∀ w, ∀ r ∈ table, r.covers w = true → ∃ i, decoder w = .ok i ∧ i.mnemonic = r.mnemonic)
    (covered : ∀ w i, decoder w = .ok i → ∃ r ∈ table, r.mnemonic = i.mnemonic ∧ r.covers w = true) (w : BitVec n) :
    (∀ r ∈ table, (∃ i, decoder w = .ok i ∧ i.mnemonic = r.mnemonic) ↔ r.covers w = true)
    ∧ (∀ r ∈ table, ∀ r' ∈ table, r.covers w = true → r'.covers w = true → r = r')
    ∧ ((∀ r ∈ table, r.covers w = false) → ∃ why, decoder w = .invalid why) := by
  refine ⟨fun r hr => ⟨?_, decodes w r hr⟩, fun r hr r' hr' h h' => ?_, fun hnone => ?_⟩
  · rintro ⟨i, hi, hmnemonic⟩
    obtain ⟨r', hr', hmnemonic', hcovers⟩ := covered w i hi
    rwa [distinct.mnemonic r hr r' hr' (hmnemonic.symm.trans hmnemonic'.symm)]
  · exact distinct.fixedBits r hr r' hr' (fixedBits_agree h h')
  · cases hd : decoder w with
    | invalid why => exact ⟨why, rfl⟩
    | ok i =>
      obtain ⟨r, hr, -, hcovers⟩ := covered w i hd
      exact absurd hcovers (by simp [hnone r hr])

/-- The word of every instruction is covered by the row of its mnemonic. -/
theorem encode_covered : ∀ i : Instr, RowMatch.Statement i
  | .init => RowMatch.init
  | .setfreq c v => RowMatch.setfreq c v
  | .getfreq c => RowMatch.getfreq c
  | .setphase c x => RowMatch.setphase c x
  | .getphase c => RowMatch.getphase c
  | .setmode m => RowMatch.setmode m
  | .getmode => RowMatch.getmode
  | .setfsel c => RowMatch.setfsel c
  | .getfsel => RowMatch.getfsel
  | .setpsel c => RowMatch.setpsel c
  | .getpsel => RowMatch.getpsel
  | .reset hold => RowMatch.reset hold
  | .w16Ctrl f => RowMatch.w16Ctrl f
  | .w16Freq0 h => RowMatch.w16Freq0 h
  | .w16Freq1 h => RowMatch.w16Freq1 h
  | .w16Phase0 q => RowMatch.w16Phase0 q
  | .w16Phase1 q => RowMatch.w16Phase1 q

/-! The rows of the command table, read field by field. -/

theorem cmdWord_eq_iff_fields (x y : CmdWord) :
    x = y ↔ cmdOp x = cmdOp y ∧ cmdArg x = cmdArg y ∧ cmdVal x = cmdVal y := by
  refine ⟨fun h => h ▸ ⟨rfl, rfl, rfl⟩, fun ⟨hop, harg, hval⟩ => ?_⟩
  rw [← cmdWordOf_fields x, hop, harg, hval, cmdWordOf_fields]

theorem covers_iff_fields {m : String} {op arg opMask argMask : BitVec 4} {val valMask : BitVec 32} {w : CmdWord} :
    (EncRow.mk m (cmdWordOf op arg val) (cmdWordOf opMask argMask valMask)).covers w = true ↔
      cmdOp w &&& opMask = op ∧ cmdArg w &&& argMask = arg ∧ cmdVal w &&& valMask = val := by
  have op_and (x y : CmdWord) : cmdOp (x &&& y) = cmdOp x &&& cmdOp y := BitVec.extractLsb'_and ..
  have arg_and (x y : CmdWord) : cmdArg (x &&& y) = cmdArg x &&& cmdArg y := BitVec.extractLsb'_and ..
  have val_and (x y : CmdWord) : cmdVal (x &&& y) = cmdVal x &&& cmdVal y := BitVec.extractLsb'_and ..
  rw [EncRow.covers, beq_iff_eq, cmdWord_eq_iff_fields, op_and, arg_and, val_and]
  simp only [cmdOp_cmdWordOf, cmdArg_cmdWordOf, cmdVal_cmdWordOf]

theorem eq_of_and_ones {n : Nat} {x y ones : BitVec n} (h : x &&& ones = y) (hones : ones = BitVec.allOnes n) :
    x = y := by
  rwa [hones, BitVec.and_allOnes] at h

section
variable {m : String} {w : CmdWord} {op : BitVec 4}

/-- A row that fixes every bit covers its one word. -/
theorem eq_of_covers_bare {pat : CmdWord} (h : (EncRow.mk m pat 0xFFFFFFFFFF#40).covers w = true) : pat = w := by
  rw [EncRow.covers, beq_iff_eq] at h
  exact (eq_of_and_ones h rfl).symm

/-- A row that fixes `OP` and `VAL`. -/
theorem eq_of_covers_arg
    (h : (EncRow.mk m (cmdWordOf op 0#4 0#32) (cmdWordOf 0xF#4 0x0#4 0xFFFFFFFF#32)).covers w = true) :
    cmdWordOf op (cmdArg w) 0#32 = w := by
  obtain ⟨hop, -, hval⟩ := covers_iff_fields.1 h
  exact cmdWordOf_eq (eq_of_and_ones hop rfl) rfl (eq_of_and_ones hval rfl)

/-- A row that fixes `OP` alone. -/
theorem eq_of_covers_op
    (h : (EncRow.mk m (cmdWordOf op 0#4 0#32) (cmdWordOf 0xF#4 0x0#4 0x00000000#32)).covers w = true) :
    cmdWordOf op (cmdArg w) (cmdVal w) = w := by
  obtain ⟨hop, -, -⟩ := covers_iff_fields.1 h
  exact cmdWordOf_eq (eq_of_and_ones hop rfl) rfl rfl

/-- A row that fixes `OP` and the high half of `VAL`. -/
theorem eq_of_covers_argLow
    (h : (EncRow.mk m (cmdWordOf op 0#4 0#32) (cmdWordOf 0xF#4 0x0#4 0xFFFF0000#32)).covers w = true) :
    cmdWordOf op (cmdArg w) (((cmdVal w).extractLsb' 0 16).setWidth 32) = w := by
  obtain ⟨hop, -, hval⟩ := covers_iff_fields.1 h
  have hhigh := congrArg (BitVec.extractLsb' 16 16) hval
  rw [BitVec.extractLsb'_and] at hhigh
  exact cmdWordOf_eq (eq_of_and_ones hop rfl) rfl (setWidth_of_high_zero (eq_of_and_ones hhigh rfl)).symm

/-- A row that fixes all but the lowest bit of `ARG`. -/
theorem eq_of_covers_hold
    (h : (EncRow.mk m (cmdWordOf op 0#4 0#32) (cmdWordOf 0xF#4 0xE#4 0xFFFFFFFF#32)).covers w = true) :
    cmdWordOf op ((BitVec.ofBool ((cmdArg w).getLsbD 0)).setWidth 4) 0#32 = w := by
  obtain ⟨hop, harg, hval⟩ := covers_iff_fields.1 h
  have hhold : ∀ x : BitVec 4, x &&& 0xE#4 = 0#4 → x = (BitVec.ofBool (x.getLsbD 0)).setWidth 4 := by decide
  exact cmdWordOf_eq (eq_of_and_ones hop rfl) (hhold _ harg) (eq_of_and_ones hval rfl)

end

/-- Every word that a row of the command table covers is the word of an instruction of the row. -/
theorem encoded_of_covers_cmdTable (p : Params) (w : CmdWord) : ∀ r ∈ cmdTable, r.covers w = true →
    ∃ i : Instr, i.mnemonic = r.mnemonic ∧ encode p i = .cmd40 w := by
  simp only [cmdTable, List.forall_mem_cons, List.not_mem_nil, false_implies, implies_true, and_true]
  refine ⟨?init, ?setfreq, ?getfreq, ?setphase, ?getphase, ?setmode, ?getmode, ?setfsel, ?getfsel, ?setpsel, ?getpsel,
    ?reset⟩
  case init => exact fun h => ⟨.init, rfl, congrArg _ (eq_of_covers_bare h)⟩
  case setfreq => exact fun h => ⟨.setfreq _ _, rfl, congrArg _ (eq_of_covers_op (op := 0x1#4) h)⟩
  case getfreq => exact fun h => ⟨.getfreq _, rfl, congrArg _ (eq_of_covers_arg (op := 0x2#4) h)⟩
  case setphase => exact fun h => ⟨.setphase _ _, rfl, congrArg _ (eq_of_covers_argLow (op := 0x3#4) h)⟩
  case getphase => exact fun h => ⟨.getphase _, rfl, congrArg _ (eq_of_covers_arg (op := 0x4#4) h)⟩
  case setmode => exact fun h => ⟨.setmode _, rfl, congrArg _ (eq_of_covers_arg (op := 0x5#4) h)⟩
  case getmode => exact fun h => ⟨.getmode, rfl, congrArg _ (eq_of_covers_bare h)⟩
  case setfsel => exact fun h => ⟨.setfsel _, rfl, congrArg _ (eq_of_covers_arg (op := 0x7#4) h)⟩
  case getfsel => exact fun h => ⟨.getfsel, rfl, congrArg _ (eq_of_covers_bare h)⟩
  case setpsel => exact fun h => ⟨.setpsel _, rfl, congrArg _ (eq_of_covers_arg (op := 0x9#4) h)⟩
  case getpsel => exact fun h => ⟨.getpsel, rfl, congrArg _ (eq_of_covers_bare h)⟩
  case reset => exact fun h => ⟨.reset _, rfl, congrArg _ (eq_of_covers_hold (op := 0xB#4) h)⟩

/-- The rows of the emitted words are the tests of the decoder, default parameters. -/
theorem decodes_of_covers_w16Table (w : Word16) : ∀ r ∈ w16Table, r.covers w = true →
    ∃ i, decodeW16 Params.default w = .ok i ∧ i.mnemonic = r.mnemonic := by
  have hc := Params.conditions_of_wf default_wf
  simp only [w16Table, EncRow.covers, beq_iff_eq, List.forall_mem_cons, List.not_mem_nil, false_implies, implies_true,
    and_true]
  refine ⟨?ctrl, ?freq0, ?freq1, ?phase0, ?phase1⟩
  case ctrl => exact fun h => ⟨_, decodeW16_of_ctrlFormat h, rfl⟩
  case freq0 => exact fun h => ⟨_, decodeW16_of_freqFormat hc (c := .ch0) h, rfl⟩
  case freq1 => exact fun h => ⟨_, decodeW16_of_freqFormat hc (c := .ch1) h, rfl⟩
  case phase0 => exact fun h => ⟨_, decodeW16_of_phaseFormat hc (c := .ch0) h, rfl⟩
  case phase1 => exact fun h => ⟨_, decodeW16_of_phaseFormat hc (c := .ch1) h, rfl⟩

/-- Settles O4: a word that decodes is the encoding of its instruction, which its row covers; a word that a row covers
is the encoding of an instruction of the row. -/
theorem decoderIsTheEncodingTable : Obligations.DecoderIsTheEncodingTable := by
  unfold Obligations.DecoderIsTheEncodingTable
  have hc := Params.conditions_of_wf default_wf
  refine ⟨decoder_is_table cmdTable_distinct (fun w r hr h => ?_) (fun w i hd => ?_),
    decoder_is_table w16Table_distinct decodes_of_covers_w16Table (fun w i hd => ?_)⟩
  · obtain ⟨i, hmnemonic, hw⟩ := encoded_of_covers_cmdTable Params.default w r hr h
    have hd := decodeInvertsEncode Params.default i default_wf
    rw [hw] at hd
    exact ⟨i, hd, hmnemonic⟩
  · have hrow := encode_covered i
    rwa [RowMatch.Statement, encode_of_decodeCmd Params.default hd] at hrow
  · have hrow := encode_covered i
    rwa [RowMatch.Statement, encode_of_decodeW16 hc hd] at hrow

end Sys2Proof
end

section
/-! PROOFS. Acceptance (30_encoding.md R60, R69, R74): the step of an idle block, and the rejection that the command
level foretells. -/

namespace Sys2Proof.Machine

open Sys2Proof

/-- A step of an idle block accepts the word on the port (42_sequencer.md R134). -/
theorem step_of_idle {s : State} {w : CmdWord} {rest : List CmdWord} (hb : s.busy = false) (hc : s.caller = w :: rest) :
    step s = accept w { s with caller := rest, rsp := none } := by
  simp [step, microStep, acceptNext, clearRsp, hb, hc]

/-- A word whose validation fails is rejected with the status of the failing check (60_exceptions.md R150, R151): the
decoder and the fields' own checks reject the same words (`accept_agrees`). -/
theorem accept_of_validate {s : State} {w : CmdWord} {st : Status} (hv : validate s.arch.initDone w = some st) :
    accept w s = .next (reject st s) := by
  have hst : st ≠ .ok := by
    rintro rfl
    simp only [validate] at hv
    split_ifs at hv <;> contradiction
  have hperform : perform s.params s.arch w = ⟨false, [], ⟨st, 0#32⟩, s.arch⟩ := by simp [perform, hv]
  have hagrees := accept_agrees w s
  rw [hperform] at hagrees
  generalize accept w s = out at hagrees
  generalize hr : (⟨false, [], ⟨st, 0#32⟩, s.arch⟩ : CommandResult) = r at hagrees
  cases hagrees with
  | responds rsp =>
    simp only [CommandResult.mk.injEq, true_and, and_true] at hr
    subst hr
    rfl
  | starts _ =>
    simp only [writes, CommandResult.mk.injEq, Response.mk.injEq] at hr
    obtain ⟨-, -, ⟨hok, -⟩, -⟩ := hr
    exact absurd hok hst

/-- A must-be-zero bit is checked first, whatever the lifecycle state (60_exceptions.md R150 check 1). -/
theorem validate_of_mustBeZeroBroken {w : CmdWord} (h : mustBeZeroBroken w = true) (initDone : Bool) :
    validate initDone w = some .errInvalid := by
  simp [validate, h]

/-- Settles O5: the acceptance of a word that decodes is the performing of its instruction. -/
theorem stepRunsTheDecodedCommand : Obligations.StepRunsTheDecodedCommand := by
  unfold Obligations.StepRunsTheDecodedCommand
  intro s w rest i hb hc hd
  rw [step_of_idle hb hc, accept, hd]

/-- Settles O9: each of the four conditions of 30_encoding.md R69 is one of validation's, so validation rejects the word
and the decoder with it. -/
theorem mustBeZeroBitsAreRejected : Obligations.MustBeZeroBitsAreRejected := by
  unfold Obligations.MustBeZeroBitsAreRejected
  intro s w rest hb hc hbits
  have hbroken : mustBeZeroBroken w = true := by
    rcases hbits with ⟨-, h1, h3, hval⟩ | ⟨hop, hhigh⟩ | ⟨hop, harg⟩ | ⟨hop, harg⟩
    · have h1' : (cmdOp w).toNat ≠ 1 := fun h => h1 (BitVec.eq_of_toNat_eq h)
      have h3' : (cmdOp w).toNat ≠ 3 := fun h => h3 (BitVec.eq_of_toNat_eq h)
      simp [mustBeZeroBroken, h1', h3', hval]
    · simp [mustBeZeroBroken, hop, hhigh]
    · rcases hop with hop | hop | hop | hop <;> simp [mustBeZeroBroken, hop, harg]
    · simp [mustBeZeroBroken, hop, harg]
  rw [step_of_idle hb hc]
  exact accept_of_validate (validate_of_mustBeZeroBroken hbroken _)

/-- Settles O36: an idle block's acceptance never stops, and the invariant shuts out the positions where a running
sequencer would. -/
theorem everyStepHasANextState : Obligations.EveryStepHasANextState := by
  unfold Obligations.EveryStepHasANextState
  intro s hs
  exact hs.step_next

/-! The accessors (40_register_model.md R100 to R105). -/

theorem withChan_of_initDone {s : State} (hi : s.arch.initDone = true) (c : Chan) (k : Chan → Result) :
    withChan (BitVec.ofNat 4 c.toNat) s k = k c := by
  cases c <;> exact needInit_of_initDone hi _

section
variable {s : State} (hi : s.arch.initDone = true)
include hi

theorem exec_getfreq (c : Chan) :
    exec (.getfreq (BitVec.ofNat 4 c.toNat)) s = .next (answer (s.arch.chan c).freqUser s) :=
  withChan_of_initDone hi c fun ch => .next (answer (s.arch.chan ch).freqUser s)

theorem exec_getphase (c : Chan) :
    exec (.getphase (BitVec.ofNat 4 c.toNat)) s = .next (answer (phaseValue (s.arch.chan c).phaseUser) s) :=
  withChan_of_initDone hi c fun ch => .next (answer (phaseValue (s.arch.chan ch).phaseUser) s)

theorem exec_getmode : exec .getmode s = .next (answer (modeValue s.arch.modeCache) s) := needInit_of_initDone hi _

theorem exec_getfsel : exec .getfsel s = .next (answer (chanValue s.arch.fselActive) s) := needInit_of_initDone hi _

theorem exec_getpsel : exec .getpsel s = .next (answer (chanValue s.arch.pselActive) s) := needInit_of_initDone hi _

end

/-- Settles O18: with `INIT_DONE` set and the operand in range, validation passes and the accessor answers. -/
theorem accessorsAnswerTheStoredValue : Obligations.AccessorsAnswerTheStoredValue := by
  unfold Obligations.AccessorsAnswerTheStoredValue
  intro s hi
  exact ⟨exec_getfreq hi .ch0, exec_getfreq hi .ch1, exec_getphase hi .ch0, exec_getphase hi .ch1, exec_getmode hi,
    exec_getfsel hi, exec_getpsel hi⟩

end Sys2Proof.Machine
end

section
/-! PROOFS. What the block emits (30_encoding.md R75): each word of a started command is composed in one of the five
formats, and a control word from fields whose mode bits are those of a mode. -/

namespace Sys2Proof.Machine

open Sys2Proof

/-! A step of an instruction that ends with `BUSY = 1` has passed every check of validation. -/

theorem next_ne_of_idle {t u : State} (hbusy : t.busy = true) (hu : u.busy = false) :
    (.next t : Result) ≠ .next u := fun h => by
  obtain rfl := Host.Outcome.next.inj h
  exact absurd (hu.symm.trans hbusy) Bool.false_ne_true

section
variable {s t : State} (hidle : s.busy = false) (hbusy : t.busy = true)
include hidle hbusy

theorem needInit_started {k : Result} (h : needInit s k = .next t) : s.arch.initDone = true ∧ k = .next t := by
  rcases needInit_cases s k with ⟨-, hk⟩ | ⟨hi, hk⟩
  · exact absurd (h.symm.trans hk) (next_ne_of_idle hbusy hidle)
  · exact ⟨hi, hk.symm.trans h⟩

theorem withChan_started {c : BitVec 4} {k : Chan → Result} (h : withChan c s k = .next t) :
    ∃ ch, s.arch.initDone = true ∧ k ch = .next t := by
  rcases withChan_cases c s k with ⟨-, hk⟩ | ⟨-, -, -, hk⟩ | ⟨ch, -, hi, hk⟩
  · exact absurd (h.symm.trans hk) (next_ne_of_idle hbusy hidle)
  · exact absurd (h.symm.trans hk) (next_ne_of_idle hbusy hidle)
  · exact ⟨ch, hi, hk.symm.trans h⟩

theorem withMode_started {m : BitVec 4} {k : Mode → Result} (h : withMode m s k = .next t) :
    ∃ md, s.arch.initDone = true ∧ k md = .next t := by
  rcases withMode_cases m s k with ⟨-, hk⟩ | ⟨-, -, -, hk⟩ | ⟨md, -, hi, hk⟩
  · exact absurd (h.symm.trans hk) (next_ne_of_idle hbusy hidle)
  · exact absurd (h.symm.trans hk) (next_ne_of_idle hbusy hidle)
  · exact ⟨md, hi, hk.symm.trans h⟩

/-- An idle block is running after INIT, or after a write command that started without `configure()`
(41_write_commands.md R110, R111). -/
theorem exec_started {i : Instr} (h : exec i s = .next t) :
    (i = .init ∧ t = startWrite true (initEffect s.params) s) ∨ ∃ e, Starts s false e ∧ t = startWrite false e s := by
  cases i with
  | init => exact .inl ⟨rfl, (Host.Outcome.next.inj h).symm⟩
  | setfreq c v =>
    obtain ⟨ch, hi, hk⟩ := withChan_started hidle hbusy h
    exact .inr ⟨_, .setfreq ch v hi, (Host.Outcome.next.inj hk).symm⟩
  | setphase c x =>
    obtain ⟨ch, hi, hk⟩ := withChan_started hidle hbusy h
    exact .inr ⟨_, .setphase ch x hi, (Host.Outcome.next.inj hk).symm⟩
  | setmode m =>
    obtain ⟨md, hi, hk⟩ := withMode_started hidle hbusy h
    exact .inr ⟨_, .setmode md hi, (Host.Outcome.next.inj hk).symm⟩
  | setfsel c =>
    obtain ⟨ch, hi, hk⟩ := withChan_started hidle hbusy h
    exact .inr ⟨_, .setfsel ch hi, (Host.Outcome.next.inj hk).symm⟩
  | setpsel c =>
    obtain ⟨ch, hi, hk⟩ := withChan_started hidle hbusy h
    exact .inr ⟨_, .setpsel ch hi, (Host.Outcome.next.inj hk).symm⟩
  | reset hold =>
    obtain ⟨hi, hk⟩ := needInit_started hidle hbusy h
    exact .inr ⟨_, .reset hold hi, (Host.Outcome.next.inj hk).symm⟩
  | getfreq c | getphase c =>
    obtain ⟨ch, -, hk⟩ := withChan_started hidle hbusy h
    exact absurd hk.symm (next_ne_of_idle hbusy hidle)
  | getmode | getfsel | getpsel =>
    obtain ⟨-, hk⟩ := needInit_started hidle hbusy h
    exact absurd hk.symm (next_ne_of_idle hbusy hidle)
  | w16Ctrl f | w16Freq0 f | w16Freq1 f | w16Phase0 f | w16Phase1 f =>
    exact absurd h.symm (next_ne_of_idle hbusy hidle)

end

/-! The words of the commands. -/

/-- A word composed in one of the five formats; the mode bits of a control word meet `ok`. -/
inductive Emitted (p : Params) (ok : ModeBits → Prop) : Word16 → Prop where
  | control (f : CtrlFields) (h : ok f.modeBits) : Emitted p ok (ctrlWord p f)
  | frequency (c : Chan) (h : Half) : Emitted p ok (freqHalfWord p c h)
  | phase (c : Chan) (q : PhaseWord) : Emitted p ok (phWord p c q)

/-- A set of mode bits of the table (40_register_model.md R96). -/
def InModeTable (p : Params) (b : ModeBits) : Prop := ∃ m, b = p.modeTable.bits m

/-- No mode bit, or the mode bits of Sine. -/
def ClearOrSine (p : Params) (b : ModeBits) : Prop := b = noFields.modeBits ∨ b = p.modeTable.sine

section
variable {p : Params} {a : Arch} {ok : ModeBits → Prop} {w : Word16}

theorem Emitted.imp {ok' : ModeBits → Prop} (h : Emitted p ok w) (himp : ∀ b, ok b → ok' b) :
    Emitted p ok' w := by
  cases h with
  | control f hf => exact .control f (himp _ hf)
  | frequency c h => exact .frequency c h
  | phase c q => exact .phase c q

/-- An emitted word decodes to its format, and a control word shows the mode bits that it was composed from. -/
theorem Emitted.decodes (hc : p.Conditions) (h : Emitted p ok w) :
    ∃ j, decodeW16 p w = .ok j ∧ ∀ f, j = .w16Ctrl f → ok (modeBitsOf p w) := by
  cases h with
  | control f hf => exact ⟨_, decodeW16_ctrlWord hc f, fun _ _ => (modeBitsOf_ctrlWord hc f).symm ▸ hf⟩
  | frequency c h => exact ⟨_, decodeW16_freqHalfWord hc c h, fun f hf => absurd hf (w16Freq_ne_w16Ctrl c h f)⟩
  | phase c q => exact ⟨_, decodeW16_phWord hc c q, fun f hf => absurd hf (w16Phase_ne_w16Ctrl c q f)⟩

/-- A control word that agrees with the shadow registers carries the pattern of the mode in the cache. -/
theorem ArchInv.emitted (h : ArchInv p a) (hc : p.Conditions) : Emitted p (InModeTable p) a.cw := by
  rw [h.cw_eq hc]
  exact .control _ ⟨a.modeCache, rfl⟩

/-- INIT's control words carry no mode bit, or those of Sine (41_write_commands.md R111). -/
theorem initEffect_emitted (hc : p.Conditions) :
    ∀ w ∈ (initEffect p).words, Emitted p (ClearOrSine p) w := by
  simp only [initEffect, initCw_eq hc, initCwHeld_eq hc, initCwReleased_eq hc, initCwSine_eq hc, initCwFsel_eq hc,
    initCwPsel_eq hc, List.forall_mem_cons, List.not_mem_nil, false_implies, implies_true, and_true]
  have defaults : Emitted p (ClearOrSine p) (ctrlWord p noFields) := .control _ (.inl rfl)
  have held : Emitted p (ClearOrSine p) (ctrlWord p { noFields with reset := true }) := .control _ (.inl rfl)
  have sine : Emitted p (ClearOrSine p) (ctrlWord p (noFields.setModeBits p.modeTable.sine)) := .control _ (.inr rfl)
  exact ⟨defaults, held, held, .frequency _ _, .frequency _ _, held, .frequency _ _, .frequency _ _, .phase _ _,
    .phase _ _, defaults, sine, sine, sine⟩

theorem resetEffect_emitted (hc : p.Conditions) (ha : ArchInv p a) (hold : Bool) :
    ∀ w ∈ (resetEffect p hold a).words, Emitted p (InModeTable p) w := by
  have bit (r : Bool) : Emitted p (InModeTable p) (applyReset p a.cw r) := (ha.setReset hc r).emitted hc
  unfold resetEffect
  split
  · simp [bit]
  split
  · simp [bit]
  · simp [bit]

end

/-- Every control word of a command other than INIT carries a pattern of the mode table: it is the control word of the
committed state, or of a state that meets the register invariant as well. -/
theorem Starts.emitted {s : State} {e : Effect} (hs : RegisterInv s) (h : Starts s false e) :
    ∀ w ∈ e.words, Emitted s.params (InModeTable s.params) w := by
  have hc := Params.conditions_of_wf hs.paramsWf
  cases h with
  | setfreq c v hi =>
    have cw := (hs.committed hi).emitted hc
    simpa [setfreqEffect, cw] using ⟨Emitted.frequency c _, Emitted.frequency c _⟩
  | setphase c x hi => simpa [setphaseEffect] using Emitted.phase c _
  | setmode m hi => simpa [setmodeEffect] using ((hs.committed hi).setmode hc m).emitted hc
  | setfsel c hi => simpa [setfselEffect] using ((hs.committed hi).setfsel hc c).emitted hc
  | setpsel c hi => simpa [setpselEffect] using ((hs.committed hi).setpsel hc c).emitted hc
  | reset hold hi => exact resetEffect_emitted hc (hs.committed hi) hold

/-- Settles O49: each word is composed in one of the five formats, so it decodes to it, and shows the mode bits that it
was composed from. -/
theorem onlyEmittedFormatsAreEmitted : Obligations.OnlyEmittedFormatsAreEmitted := by
  unfold Obligations.OnlyEmittedFormatsAreEmitted
  intro s t i hs hidle h hbusy w hw
  have hc := Params.conditions_of_wf hs.paramsWf
  have hemitted : Emitted s.params
      (fun b => i ≠ .init ∨ s.params.modeTable.sine = noFields.modeBits → InModeTable s.params b) w := by
    rcases exec_started hidle hbusy h with ⟨rfl, rfl⟩ | ⟨e, he, rfl⟩
    · refine (initEffect_emitted hc w hw).imp fun b hb hsine => ⟨.sine, ?_⟩
      rcases hsine with hne | hsine
      · exact absurd rfl hne
      · rcases hb with rfl | rfl
        · exact hsine.symm
        · rfl
    · exact (he.emitted hs w hw).imp fun _ hb _ => hb
  obtain ⟨j, hj, hmode⟩ := hemitted.decodes hc
  exact ⟨j, hj, decodeW16_not_isCommand hj, fun hcond f hf => hmode f hf hcond⟩

end Sys2Proof.Machine
end

section
/-! PROOFS. Setters and accessors at the command level (30_encoding.md R80; 40_register_model.md R100 to R105). -/

namespace Sys2Proof.Machine

open Sys2Proof Sys2Proof.Laws

@[simp] theorem validChan_toNat (c : Chan) : validChan (BitVec.ofNat 4 c.toNat) = c := by cases c <;> rfl

@[simp] theorem validMode_toNat (m : Mode) : validMode (BitVec.ofNat 4 m.toNat) = m := by cases m <;> rfl

/-! A command with an operand in range passes validation after INIT and is performed (60_exceptions.md R150). -/

section
variable {p : Params} {a : Arch} (hi : a.initDone = true) (c : Chan) (m : Mode)
include hi

theorem perform_setfreq (v : FreqOperand) :
    perform p a (cmdWordOf 1#4 (BitVec.ofNat 4 c.toNat) v) = writes false (setfreqEffect p c v a) := by
  have hv : validate a.initDone (cmdWordOf 1#4 (BitVec.ofNat 4 c.toNat) v) = none := by
    cases c <;> simp [validate, mustBeZeroBroken, operandOutOfRange, hi, Chan.toNat]
  simp [perform, hv]

theorem perform_setphase (x : PhaseOperand) :
    perform p a (cmdWordOf 3#4 (BitVec.ofNat 4 c.toNat) (x.setWidth 32)) = writes false (setphaseEffect p c x a) := by
  have hv : validate a.initDone (cmdWordOf 3#4 (BitVec.ofNat 4 c.toNat) (x.setWidth 32)) = none := by
    cases c <;> simp [validate, mustBeZeroBroken, operandOutOfRange, hi, Chan.toNat, phaseOperand_high]
  simp [perform, hv, phaseOperand_low]

/-- Validation of a word whose one operand is a channel. -/
theorem validate_chanOperand {op : BitVec 4} (hop : op.toNat ∈ [2, 4, 7, 9]) :
    validate a.initDone (cmdWordOf op (BitVec.ofNat 4 c.toNat) 0#32) = none := by
  simp only [List.mem_cons, List.not_mem_nil, or_false] at hop
  rcases hop with hop | hop | hop | hop <;> cases c <;>
    simp [validate, mustBeZeroBroken, operandOutOfRange, hi, hop, Chan.toNat]

/-- Validation of a word without operands. -/
theorem validate_bare {op : BitVec 4} (hop : op.toNat ∈ [0, 6, 8, 10]) :
    validate a.initDone (cmdWordOf op 0#4 0#32) = none := by
  simp only [List.mem_cons, List.not_mem_nil, or_false] at hop
  rcases hop with hop | hop | hop | hop <;> simp [validate, mustBeZeroBroken, operandOutOfRange, hi, hop]

theorem perform_setmode :
    perform p a (cmdWordOf 5#4 (BitVec.ofNat 4 m.toNat) 0#32) = writes false (setmodeEffect p m a) := by
  have hv : validate a.initDone (cmdWordOf 5#4 (BitVec.ofNat 4 m.toNat) 0#32) = none := by
    cases m <;> simp [validate, mustBeZeroBroken, operandOutOfRange, hi, Mode.toNat]
  simp [perform, hv]

theorem perform_setfsel :
    perform p a (cmdWordOf 7#4 (BitVec.ofNat 4 c.toNat) 0#32) = writes false (setfselEffect p c a) := by
  simp [perform, validate_chanOperand hi c]

theorem perform_setpsel :
    perform p a (cmdWordOf 9#4 (BitVec.ofNat 4 c.toNat) 0#32) = writes false (setpselEffect p c a) := by
  simp [perform, validate_chanOperand hi c]

theorem perform_getfreq :
    perform p a (cmdWordOf 2#4 (BitVec.ofNat 4 c.toNat) 0#32) = returns (a.chan c).freqUser a := by
  simp [perform, validate_chanOperand hi c]

theorem perform_getphase :
    perform p a (cmdWordOf 4#4 (BitVec.ofNat 4 c.toNat) 0#32) = returns (phaseValue (a.chan c).phaseUser) a := by
  simp [perform, validate_chanOperand hi c]

theorem perform_getmode : perform p a (cmdWordOf 6#4 0#4 0#32) = returns (modeValue a.modeCache) a := by
  simp [perform, validate_bare hi]

theorem perform_getfsel : perform p a (cmdWordOf 8#4 0#4 0#32) = returns (chanValue a.fselActive) a := by
  simp [perform, validate_bare hi]

theorem perform_getpsel : perform p a (cmdWordOf 10#4 0#4 0#32) = returns (chanValue a.pselActive) a := by
  simp [perform, validate_bare hi]

end

/-! What the setters leave unchanged (10_state.md R18, R33). -/

theorem chan_eq_of_channels {a b : Arch} (h0 : b.ch0 = a.ch0) (h1 : b.ch1 = a.ch1) (d : Chan) :
    b.chan d = a.chan d := by
  cases d
  · exact h0
  · exact h1

theorem setmodeEffect_chan (p : Params) (m : Mode) (a : Arch) (d : Chan) :
    (setmodeEffect p m a).arch.chan d = a.chan d := chan_eq_of_channels rfl rfl d

theorem setfselEffect_chan (p : Params) (c : Chan) (a : Arch) (d : Chan) :
    (setfselEffect p c a).arch.chan d = a.chan d := chan_eq_of_channels rfl rfl d

theorem setpselEffect_chan (p : Params) (c : Chan) (a : Arch) (d : Chan) :
    (setpselEffect p c a).arch.chan d = a.chan d := chan_eq_of_channels rfl rfl d

/-- Settles O54: each accessor reads the register that its setter replaced, and the setters replace no other register
than their own. -/
theorem accessorsReturnWhatWasSet : Obligations.AccessorsReturnWhatWasSet := by
  unfold Obligations.AccessorsReturnWhatWasSet
  intro p a c v x m hi
  simp only [perform_setfreq hi, perform_setphase hi, perform_setmode hi, perform_setfsel hi, perform_setpsel hi,
    writes]
  have hfreq : (setfreqEffect p c v a).arch.initDone = true := (setChan_initDone _ _ _).trans hi
  have hphase : (setphaseEffect p c x a).arch.initDone = true := (setChan_initDone _ _ _).trans hi
  refine ⟨?getfreq, ?getphase, perform_getmode hi, perform_getfsel hi, perform_getpsel hi, ?frames⟩
  case getfreq =>
    rw [perform_getfreq hfreq]
    simp [returns, setfreqEffect, Channel.setFreq]
  case getphase =>
    rw [perform_getphase hphase]
    simp [returns, setphaseEffect, Channel.setPhase, phaseValue]
  case frames =>
    simp only [setmodeEffect_chan, setfselEffect_chan, setpselEffect_chan]
    simp [setfreqEffect, setphaseEffect, setmodeEffect, setfselEffect, setpselEffect, Channel.setFreq, Channel.setPhase]

end Sys2Proof.Machine
end

section
/-! PROOFS. The assembler (30_encoding.md R76, R77), and the words written out from the tables (30_encoding.md R78). -/

namespace Sys2Proof.Machine

open Sys2Proof

/-- An argument number assembles to the four bits of that number. -/
theorem asmArg_eq_some {n : Nat} {c : BitVec 4} (h : asmArg n = some c) : c.toNat = n := by
  unfold asmArg at h
  split at h
  next hlt =>
    obtain rfl := Option.some.inj h
    exact Nat.mod_eq_of_lt hlt
  next => contradiction

/-- A decimal literal assembles only to the operand that stands for exactly its value: the division has no remainder and
the quotient fits. -/
theorem operand_decimal_eq_some {frac width mant places : Nat} {v : BitVec width}
    (h : AsmNum.operand frac width (.decimal mant places) = some v) : v.toNat * 10 ^ places = mant * 2 ^ frac := by
  simp only [AsmNum.operand] at h
  split at h
  next hexact =>
    obtain ⟨hrem, hfits⟩ := hexact
    obtain rfl := Option.some.inj h
    rw [BitVec.toNat_ofNat, Nat.mod_eq_of_lt hfits]
    exact Nat.div_mul_cancel (Nat.dvd_of_mod_eq_zero hrem)
  next => contradiction

theorem assemble_setfreq {ch : Nat} {hz : AsmNum} {c : BitVec 4} {v : FreqOperand}
    (h : assemble (.setfreq ch hz) = some (.setfreq c v)) :
    asmArg ch = some c ∧ hz.operand hzFracBits 32 = some v := by
  simpa [assemble, Option.bind_eq_some_iff] using h

theorem assemble_setphase {ch : Nat} {x : AsmNum} {c : BitVec 4} {v : PhaseOperand}
    (h : assemble (.setphase ch x) = some (.setphase c v)) :
    asmArg ch = some c ∧ x.operand phFracBits 16 = some v := by
  simpa [assemble, Option.bind_eq_some_iff] using h

/-- Settles O58: both operands of a line that assembles are exact, each by its own lemma. -/
theorem assemblerNeverRounds : Obligations.AssemblerNeverRounds := by
  unfold Obligations.AssemblerNeverRounds
  refine ⟨fun ch mant places c v h => ?_, fun ch mant places c x h => ?_, rfl, rfl, by decide⟩
  · obtain ⟨hch, hv⟩ := assemble_setfreq h
    exact ⟨asmArg_eq_some hch, operand_decimal_eq_some hv⟩
  · obtain ⟨hch, hx⟩ := assemble_setphase h
    exact ⟨asmArg_eq_some hch, operand_decimal_eq_some hx⟩

/-- Settles O1: the decoder evaluated on each word. -/
theorem sampleWordsDecode : Obligations.SampleWordsDecode := by
  unfold Obligations.SampleWordsDecode
  decide

end Sys2Proof.Machine
end

section
/-! PROOFS. The bits of the control word, by their positions: mode, selections and reset (40_register_model.md R97 to
R99). -/

namespace Sys2Proof

/-- The last write to a bit wins. -/
theorem setBit_setBit {i : Nat} (hi : i < 16) (w : Word16) (b b' : Bool) :
    setBit (setBit w i b) i b' = setBit w i b' := by
  apply word16_ext
  intro n _
  simp only [setBit_getLsbD _ _ _ _ hi]
  split <;> rfl

/-- Writing the value that a bit has changes nothing. -/
theorem setBit_eq_self {i : Nat} (hi : i < 16) {w : Word16} {b : Bool} (h : w.getLsbD i = b) : setBit w i b = w := by
  apply word16_ext
  intro n _
  rw [setBit_getLsbD _ _ _ _ hi]
  split
  next heq => rw [heq, h]
  next => rfl

end Sys2Proof

namespace Sys2Proof.Machine

open Sys2Proof

/-- The last mode wins: nothing of the earlier mode leaks. -/
theorem applyMode_applyMode (p : Params) (cw : Word16) (m m' : Mode) :
    applyMode p (applyMode p cw m) m' = applyMode p cw m' := by
  apply word16_ext
  intro n hn
  simp only [applyMode_getLsbD _ _ _ _ hn]
  split <;> rfl

/-- `applyMode` commutes with the write of any bit but the five mode bits. -/
theorem applyMode_setBit (p : Params) (cw : Word16) (m : Mode) (b : Bool) {i : Nat} (hi : i < 16)
    (hother : i ∉ [p.bit.opbiten, p.bit.mode, p.bit.div2, p.bit.sleep1, p.bit.sleep12]) :
    applyMode p (setBit cw i b) m = setBit (applyMode p cw m) i b := by
  apply word16_ext
  intro n hn
  rw [setBit_getLsbD _ _ _ _ hi]
  split
  next heq =>
    subst heq
    rw [applyMode_getLsbD_other _ _ _ _ hother, setBit_getLsbD _ _ _ _ hi, if_pos rfl]
  next hne =>
    rw [applyMode_getLsbD _ _ _ _ hn, applyMode_getLsbD _ _ _ _ hn, setBit_getLsbD _ _ _ _ hi, if_neg hne]

section
variable {p : Params} (hp : p.bit.wf = true)
include hp

/-- A pattern of mode bits read back. -/
theorem modeBitsOf_modeBitsWord (b : ModeBits) : modeBitsOf p (modeBitsWord p b) = b := by
  have inside := BitPos.lt16_of_wf hp
  have distinct := BitPos.ne_of_wf hp
  simp only [BitPos.toList, List.reverse_cons, List.reverse_nil, List.nil_append, List.cons_append, List.nodup_cons,
    List.mem_cons, List.not_mem_nil, or_false, not_or] at distinct
  simp only [modeBitsOf, modeBitsWord_getLsbD]
  simp [inside, distinct]

theorem modeBitsOf_applyMode (cw : Word16) (m : Mode) :
    modeBitsOf p (applyMode p cw m) = p.modeTable.bits m := by
  have inside := BitPos.lt16_of_wf hp
  calc modeBitsOf p (applyMode p cw m)
      = modeBitsOf p (modePat p m) := by
        simp only [modeBitsOf, inside, applyMode_getLsbD, true_or, or_true, if_true]
    _ = p.modeTable.bits m := modeBitsOf_modeBitsWord hp _

theorem selBit_lt (which : Which) : selBit p which < 16 := by
  have inside := BitPos.lt16_of_wf hp
  cases which <;> simp [selBit, inside]

theorem reset_lt : p.bit.reset < 16 := by
  have inside := BitPos.lt16_of_wf hp
  simp [inside]

/-- The selections and the reset lie outside the five mode bits. -/
theorem not_mem_modeBits_of_select_or_reset {i : Nat} (hi : (∃ which, i = selBit p which) ∨ i = p.bit.reset) :
    i ∉ [p.bit.opbiten, p.bit.mode, p.bit.div2, p.bit.sleep1, p.bit.sleep12] := by
  obtain ⟨distinct, -⟩ := BitPos.ne_of_wf hp
  simp only [BitPos.toList, List.nodup_cons, List.mem_cons, List.not_mem_nil, or_false, not_or] at distinct
  rcases hi with ⟨_ | _, rfl⟩ | rfl <;> simp [selBit, distinct]

end

/-- Settles O46: the mode bits read back by position, every other bit by `applyMode_getLsbD_other`; a selection and the
reset are writes of a bit outside the five. -/
theorem applyModeReplacesExactlyTheModeBits : Obligations.ApplyModeReplacesExactlyTheModeBits := by
  unfold Obligations.ApplyModeReplacesExactlyTheModeBits
  refine ⟨fun p cw m m' which c r hp => ?_, by decide, by decide⟩
  exact ⟨rfl, modeBitsOf_applyMode hp cw m, applyMode_getLsbD_other p cw m,
    applyMode_applyMode p cw m m, applyMode_applyMode p cw m m',
    applyMode_setBit p cw m c.toBool (selBit_lt hp which)
      (not_mem_modeBits_of_select_or_reset hp (.inl ⟨which, rfl⟩)),
    applyMode_setBit p cw m r (reset_lt hp) (not_mem_modeBits_of_select_or_reset hp (.inr rfl))⟩

/-- Settles O47: both operations are the write of one bit, so the laws of `setBit` give every clause. -/
theorem selectAndResetWriteOneBit : Obligations.SelectAndResetWriteOneBit := by
  unfold Obligations.SelectAndResetWriteOneBit
  refine ⟨fun p cw which c r hp => ?_, by decide, by decide, by decide, by decide, by decide⟩
  have hsel := selBit_lt hp which
  have hreset := reset_lt hp
  refine ⟨?selected, fun n hn => ?selOther, setBit_setBit hsel cw c.toBool c.toBool, fun hclear => ?restored,
    ?written, fun n hn => ?resetOther⟩
  case selected => rw [applySel_getLsbD _ _ _ _ _ hsel, if_pos rfl]
  case selOther => rw [applySel_getLsbD _ _ _ _ _ hsel, if_neg hn]
  case restored =>
    calc applySel p (applySel p cw which .ch1) which .ch0
        = applySel p cw which .ch0 := setBit_setBit hsel cw true false
      _ = cw := setBit_eq_self hsel hclear
  case written => rw [applyReset_getLsbD _ _ _ _ hreset, if_pos rfl]
  case resetOther => rw [applyReset_getLsbD _ _ _ _ hreset, if_neg hn]

end Sys2Proof.Machine
end

section
/-! PROOFS. The quantizers: rounding to nearest, and the two formulas with the default parameters (40_register_model.md
R90 to R95). -/

namespace Sys2Proof.Machine

open Sys2Proof

/-! Rounding (40_register_model.md R90, R91 (a)). -/

/-- Half up is the library's rounding of the exact quotient. -/
theorem roundDiv_halfUp_eq_round (n : Nat) {d : Nat} (hd : 0 < d) :
    (roundDiv .halfUp n d : ℤ) = round ((n : ℚ) / (d : ℚ)) := by
  have hd' : (d : ℚ) ≠ 0 := by positivity
  have hsum : (n : ℚ) / (d : ℚ) + 1 / 2 = ((2 * n + d : ℕ) : ℚ) / ((2 * d : ℕ) : ℚ) := by
    push_cast
    field_simp
  rw [round_eq, hsum, Rat.floor_natCast_div_natCast]
  rfl

/-- Half up is off by at most one half. -/
theorem abs_roundDiv_halfUp_sub_le (n : Nat) {d : Nat} (hd : 0 < d) :
    |(roundDiv .halfUp n d : ℚ) - (n : ℚ) / (d : ℚ)| ≤ 1 / 2 := by
  have hround : (roundDiv .halfUp n d : ℚ) = ((round ((n : ℚ) / (d : ℚ)) : ℤ) : ℚ) :=
    mod_cast roundDiv_halfUp_eq_round n hd
  rw [hround, abs_sub_comm]
  exact abs_sub_round _

/-- Where no exact half occurs, the tie rule does not matter. -/
theorem roundDiv_eq_of_no_tie (t : RoundTies) {n d : Nat} (hd : 0 < d) (h : (2 * n + d) % (2 * d) ≠ 0) :
    roundDiv t n d = (2 * n + d) / (2 * d) := by
  cases t with
  | halfUp => rfl
  | halfDown =>
    have hpred : (2 * n + d - 1) / (2 * d) = (2 * n + d) / (2 * d) := by
      have hsucc := Nat.succ_div_of_not_dvd (a := 2 * n + d - 1) (b := 2 * d)
        (by rwa [Nat.sub_add_cancel (by omega), Nat.dvd_iff_mod_eq_zero])
      rw [Nat.sub_add_cancel (by omega)] at hsucc
      exact hsucc.symm
    exact hpred
  | halfEven => simp [roundDiv, h]

/-! The formulas. -/

theorem qf_toNat (p : Params) (v : FreqOperand) : (qf p v).toNat = qfFull p v % 2 ^ 28 := BitVec.toNat_ofNat _ _

theorem qp_toNat (p : Params) (x : PhaseOperand) : (qp p x).toNat = qpFull p x % 2 ^ 12 := BitVec.toNat_ofNat _ _

section
variable {p : Params} (hties : p.ties = .halfUp)
include hties

theorem qfFull_eq_floor (hpos : 0 < p.fMaster) (v : FreqOperand) :
    (qfFull p v : ℤ) = ⌊((v.toNat : ℚ) / 2 ^ 7) * 2 ^ 28 / (p.fMaster : ℚ) + 1 / 2⌋ := by
  rw [qfFull, hties, roundDiv_halfUp_eq_round _ (by unfold hzFracBits; positivity), round_eq]
  congr 2
  simp only [hzFracBits]
  push_cast
  ring

/-- The numerator and the divisor of the rounding have the factor `2^HZ_FRAC_BITS` in common. -/
theorem qfFull_eq_div (v : FreqOperand) :
    qfFull p v = (v.toNat * 2 ^ 22 + p.fMaster) / (2 * p.fMaster) := by
  calc qfFull p v
      = (2 * (v.toNat * 2 ^ 28) + 2 ^ 7 * p.fMaster) / (2 * (2 ^ 7 * p.fMaster)) := by rw [qfFull, hties]; rfl
    _ = 2 ^ 7 * (v.toNat * 2 ^ 22 + p.fMaster) / (2 ^ 7 * (2 * p.fMaster)) := by congr 1 <;> ring
    _ = (v.toNat * 2 ^ 22 + p.fMaster) / (2 * p.fMaster) := Nat.mul_div_mul_left _ _ (by norm_num)

theorem qpFull_eq_floor (hpos : 0 < p.phaseDen) (x : PhaseOperand) :
    (qpFull p x : ℤ) = ⌊((x.toNat : ℚ) / 2 ^ 4) * ((p.phaseNum : ℚ) / (p.phaseDen : ℚ)) + 1 / 2⌋ := by
  rw [qpFull, hties, roundDiv_halfUp_eq_round _ (by unfold phFracBits; positivity), round_eq]
  congr 2
  simp only [phFracBits]
  push_cast
  ring

end

theorem qfFull_default (v : FreqOperand) :
    qfFull Params.default v = (v.toNat * 4194304 + 25000000) / 50000000 := qfFull_eq_div rfl v

theorem qpFull_default (x : PhaseOperand) : qpFull Params.default x = (32 * x.toNat + 225) / 450 := by
  have hraw : qpFull Params.default x = (2 * (x.toNat * 512) + 7200) / 14400 := rfl
  omega

/-- `QF_full` fits 28 bits up to this operand and no further (40_register_model.md R91 (b)). -/
theorem qfFull_default_le_iff (v : FreqOperand) :
    qfFull Params.default v ≤ 2 ^ 28 - 1 ↔ v.toNat ≤ 3199999994 := by
  rw [qfFull_default]
  omega

/-- `QP_full` fits 12 bits up to this operand and no further (40_register_model.md R94 (b)). -/
theorem qpFull_default_le_iff (x : PhaseOperand) : qpFull Params.default x ≤ 4095 ↔ x.toNat ≤ 57592 := by
  rw [qpFull_default]
  omega

theorem qf_default_toNat_of_le {v : FreqOperand} (hv : v.toNat ≤ 3199999994) :
    (qf Params.default v).toNat = qfFull Params.default v := by
  have hfits := (qfFull_default_le_iff v).2 hv
  rw [qf_toNat, Nat.mod_eq_of_lt (by omega)]

theorem qp_default_toNat_of_le {x : PhaseOperand} (hx : x.toNat ≤ 57592) :
    (qp Params.default x).toNat = qpFull Params.default x := by
  have hfits := (qpFull_default_le_iff x).2 hx
  rw [qp_toNat, Nat.mod_eq_of_lt (by omega)]

/-! No exact half: a half would need an even number to be odd (40_register_model.md R91 (a), R94 (a)). -/

/-- `QF` is the same under every tie rule. -/
theorem qfFull_default_ties (t : RoundTies) (v : FreqOperand) :
    qfFull { Params.default with ties := t } v = qfFull Params.default v := by
  have hno : (2 * (v.toNat * 2 ^ 28) + 2 ^ 7 * 25000000) % (2 * (2 ^ 7 * 25000000)) ≠ 0 := by omega
  exact roundDiv_eq_of_no_tie t (by norm_num : 0 < 2 ^ 7 * 25000000) hno

/-- `QP` is the same under every tie rule. -/
theorem qpFull_default_ties (t : RoundTies) (x : PhaseOperand) :
    qpFull { Params.default with ties := t } x = qpFull Params.default x := by
  have hno : (2 * (x.toNat * 512) + 2 ^ 4 * 450) % (2 * (2 ^ 4 * 450)) ≠ 0 := by omega
  exact roundDiv_eq_of_no_tie t (by norm_num : 0 < 2 ^ 4 * 450) hno

/-! Accuracy (40_register_model.md R92, R95). -/

theorem dqf_qf_error {v : FreqOperand} (hv : v.toNat ≤ 3199999994) :
    |dqf Params.default (qf Params.default v) - hertzOf v| ≤ (25000000 : ℚ) / 2 ^ 29 := by
  have hround : |(qfFull Params.default v : ℚ) - ((v.toNat * 2 ^ 28 : ℕ) : ℚ) / ((2 ^ 7 * 25000000 : ℕ) : ℚ)| ≤ 1 / 2 :=
    abs_roundDiv_halfUp_sub_le _ (by decide)
  have hscale : dqf Params.default (qf Params.default v) - hertzOf v
      = 25000000 / 2 ^ 28
        * ((qfFull Params.default v : ℚ) - ((v.toNat * 2 ^ 28 : ℕ) : ℚ) / ((2 ^ 7 * 25000000 : ℕ) : ℚ)) := by
    rw [dqf, hertzOf, qf_default_toNat_of_le hv]
    simp only [Params.default]
    push_cast
    ring
  calc |dqf Params.default (qf Params.default v) - hertzOf v|
      ≤ 25000000 / 2 ^ 28 * (1 / 2) := by
        rw [hscale, abs_mul, abs_of_pos (by norm_num)]
        gcongr
    _ = 25000000 / 2 ^ 29 := by norm_num

theorem dqp_qp_error {x : PhaseOperand} (hx : x.toNat ≤ 57592) :
    |dqp Params.default (qp Params.default x) - piuOf x| ≤ (225 : ℚ) / 512 := by
  have hround : |(qpFull Params.default x : ℚ) - ((x.toNat * 512 : ℕ) : ℚ) / ((2 ^ 4 * 450 : ℕ) : ℚ)| ≤ 1 / 2 :=
    abs_roundDiv_halfUp_sub_le _ (by decide)
  have hscale : dqp Params.default (qp Params.default x) - piuOf x
      = 450 / 512 * ((qpFull Params.default x : ℚ) - ((x.toNat * 512 : ℕ) : ℚ) / ((2 ^ 4 * 450 : ℕ) : ℚ)) := by
    rw [dqp, piuOf, qp_default_toNat_of_le hx]
    simp only [Params.default]
    push_cast
    ring
  calc |dqp Params.default (qp Params.default x) - piuOf x|
      ≤ 450 / 512 * (1 / 2) := by
        rw [hscale, abs_mul, abs_of_pos (by norm_num)]
        gcongr
    _ = 225 / 512 := by norm_num

/-- Every tuning word is the word of the frequency it stands for, rounded down to an operand. -/
theorem exists_qf_default_eq (t : TuningWord) : ∃ v : FreqOperand, qf Params.default v = t := by
  have ht := t.isLt
  have hv : (BitVec.ofNat 32 (t.toNat * 50000000 / 4194304)).toNat = t.toNat * 50000000 / 4194304 := by
    rw [BitVec.toNat_ofNat, Nat.mod_eq_of_lt (by omega)]
  refine ⟨BitVec.ofNat 32 (t.toNat * 50000000 / 4194304), BitVec.eq_of_toNat_eq ?_⟩
  have hfull : (t.toNat * 50000000 / 4194304 * 4194304 + 25000000) / 50000000 = t.toNat := by omega
  rw [qf_toNat, qfFull_default, hv, hfull, Nat.mod_eq_of_lt ht]

/-- Settles O40: rounding half up is the floor of the first line, and the common factor cancels for the others. -/
theorem frequencyQuantizerIsTheStatedFormula : Obligations.FrequencyQuantizerIsTheStatedFormula := by
  unfold Obligations.FrequencyQuantizerIsTheStatedFormula
  refine ⟨fun p v hpos hties => ⟨qfFull_eq_floor hties hpos v, qfFull_eq_div hties v⟩,
    fun v => ⟨qfFull_default v, ?numerator⟩, qf_toNat, ?values⟩
  case numerator => have := v.isLt; omega
  case values => decide

/-- Settles O41: rounding half up is the floor of the first line, and the common factor cancels for the second. -/
theorem phaseQuantizerIsTheStatedFormula : Obligations.PhaseQuantizerIsTheStatedFormula := by
  unfold Obligations.PhaseQuantizerIsTheStatedFormula
  refine ⟨fun p x hpos hties => qpFull_eq_floor hties hpos x, fun x => ⟨qpFull_default x, ?numerator⟩,
    qp_toNat, ?values⟩
  case numerator => have := x.isLt; omega
  case values => decide

/-- Settles O42: the bounds are the largest operands whose numerator stays below the divisor times the word's range. -/
theorem quantizerRanges : Obligations.QuantizerRanges :=
  ⟨qfFull_default_le_iff, qpFull_default_le_iff, qf_toNat _, qp_toNat _⟩

/-- Settles O43: neither quantizer meets an exact half. -/
theorem tieRuleIsNotObservable : Obligations.TieRuleIsNotObservable := fun t v x =>
  ⟨qfFull_default_ties t v, qpFull_default_ties t x⟩

/-- Settles O44: the error is that of rounding, scaled to hertz; one operand further moves the numerator by less than
the divisor. -/
theorem frequencyQuantizerIsAccurate : Obligations.FrequencyQuantizerIsAccurate := by
  unfold Obligations.FrequencyQuantizerIsAccurate
  simp only [qfFull_default]
  refine ⟨fun v => dqf_qf_error, by norm_num, fun v v' hle => ?monotone, fun v v' hnext => ?step, exists_qf_default_eq⟩
  case monotone => omega
  case step => omega

/-- Settles O45: the error is that of rounding, scaled to phase input units; one operand further moves the numerator by
less than the divisor. -/
theorem phaseQuantizerIsAccurate : Obligations.PhaseQuantizerIsAccurate := by
  unfold Obligations.PhaseQuantizerIsAccurate
  simp only [qpFull_default]
  refine ⟨fun x => dqp_qp_error, by norm_num, fun x hx => ?document, fun x x' hle => ?monotone, fun x x' hnext => ?step⟩
  case document =>
    rw [qp_default_toNat_of_le (by omega), qpFull_default]
    omega
  case monotone => omega
  case step => omega

end Sys2Proof.Machine
end

section
/-! PROOFS. The acceptance of the write commands, operand in range and `INIT_DONE` set (41_write_commands.md R111 to
R117): the sequencer starts with the command's effect. -/

namespace Sys2Proof.Machine

open Sys2Proof

theorem withMode_of_initDone {s : State} (hi : s.arch.initDone = true) (m : Mode) (k : Mode → Result) :
    withMode (BitVec.ofNat 4 m.toNat) s k = k m := by
  cases m <;> exact needInit_of_initDone hi _

/-- The meaning of INIT checks nothing (41_write_commands.md R111). -/
theorem exec_init (s : State) : exec .init s = .next (startWrite true (initEffect s.params) s) := rfl

section
variable {s : State} (hi : s.arch.initDone = true)
include hi

theorem exec_setfreq (c : Chan) (v : FreqOperand) :
    exec (.setfreq (BitVec.ofNat 4 c.toNat) v) s = .next (startWrite false (setfreqEffect s.params c v s.arch) s) :=
  withChan_of_initDone hi c fun ch => .next (startWrite false (setfreqEffect s.params ch v s.arch) s)

theorem exec_setphase (c : Chan) (x : PhaseOperand) :
    exec (.setphase (BitVec.ofNat 4 c.toNat) x) s = .next (startWrite false (setphaseEffect s.params c x s.arch) s) :=
  withChan_of_initDone hi c fun ch => .next (startWrite false (setphaseEffect s.params ch x s.arch) s)

theorem exec_setmode (m : Mode) :
    exec (.setmode (BitVec.ofNat 4 m.toNat)) s = .next (startWrite false (setmodeEffect s.params m s.arch) s) :=
  withMode_of_initDone hi m fun md => .next (startWrite false (setmodeEffect s.params md s.arch) s)

theorem exec_setfsel (c : Chan) :
    exec (.setfsel (BitVec.ofNat 4 c.toNat)) s = .next (startWrite false (setfselEffect s.params c s.arch) s) :=
  withChan_of_initDone hi c fun ch => .next (startWrite false (setfselEffect s.params ch s.arch) s)

theorem exec_setpsel (c : Chan) :
    exec (.setpsel (BitVec.ofNat 4 c.toNat)) s = .next (startWrite false (setpselEffect s.params c s.arch) s) :=
  withChan_of_initDone hi c fun ch => .next (startWrite false (setpselEffect s.params ch s.arch) s)

theorem exec_reset (hold : Bool) :
    exec (.reset hold) s = .next (startWrite false (resetEffect s.params hold s.arch) s) := needInit_of_initDone hi _

end

/-! The three branches of RESET (41_write_commands.md R117). -/

section
variable (p : Params) (a : Arch)

theorem resetEffect_hold :
    resetEffect p true a = ⟨[applyReset p a.cw true], { a with cw := applyReset p a.cw true }⟩ := rfl

theorem resetEffect_release_words :
    (resetEffect p false a).words =
      if resetHeld p a.cw then [applyReset p a.cw false] else [applyReset p a.cw true, applyReset p a.cw false] := by
  cases hheld : resetHeld p a.cw <;> simp [resetEffect, hheld]

end

/-- Settles O48: SETMODE starts with its own effect (`exec_setmode`), and nothing of the mode left stands in the word
(`applyMode_applyMode`), so that each column of the table is one word. -/
theorem modeTransitionTable : Obligations.ModeTransitionTable := by
  unfold Obligations.ModeTransitionTable
  refine ⟨fun s m hi => ⟨_, _, exec_setmode hi m, startWrite_pending _ _ _, rfl, rfl⟩, fun m0 => ?_⟩
  simp only [applyMode_applyMode]
  decide

/-- Settles O12: INIT starts with its effect, whatever the state. -/
theorem initStartsTheStartupSequence : Obligations.InitStartsTheStartupSequence := by
  unfold Obligations.InitStartsTheStartupSequence
  exact exec_init

/-- Settles O13: the acceptance of SETFREQ on each channel. -/
theorem setfreqStartsThreeWords : Obligations.SetfreqStartsThreeWords := by
  unfold Obligations.SetfreqStartsThreeWords
  intro s v hi
  exact ⟨exec_setfreq hi .ch0 v, exec_setfreq hi .ch1 v⟩

/-- Settles O14: the acceptance of SETPHASE on each channel. -/
theorem setphaseStartsOneWord : Obligations.SetphaseStartsOneWord := by
  unfold Obligations.SetphaseStartsOneWord
  intro s x hi
  exact ⟨exec_setphase hi .ch0 x, exec_setphase hi .ch1 x⟩

/-- Settles O15: the acceptance of SETMODE. -/
theorem setmodeStartsOneWord : Obligations.SetmodeStartsOneWord := by
  unfold Obligations.SetmodeStartsOneWord
  intro s m hi
  exact exec_setmode hi m

/-- Settles O16: the acceptance of SETFSEL and of SETPSEL. -/
theorem selectsStartOneWord : Obligations.SelectsStartOneWord := by
  unfold Obligations.SelectsStartOneWord
  intro s c hi
  exact ⟨exec_setfsel hi c, exec_setpsel hi c⟩

/-- Settles O17: RESET starts with its effect; without a hold its words depend on the held reset, its state does not. -/
theorem resetHoldsReleasesOrPulses : Obligations.ResetHoldsReleasesOrPulses := by
  unfold Obligations.ResetHoldsReleasesOrPulses
  intro s hi
  refine ⟨exec_reset hi true, ?_⟩
  rw [exec_reset hi false, startWrite, resetEffect_release_words, resetEffect_arch]
  rfl

end Sys2Proof.Machine
end

section
/-! PROOFS. The command level, said once (00_scope.md R9): what a command word can do, and from it the word counts and
the laws of the document (41_write_commands.md R118, R120). -/

namespace Sys2Proof.Machine

open Sys2Proof

/-- The word of INIT, the only one of its operation code whose must-be-zero bits are zero (30_encoding.md R69). -/
theorem init_word {w : CmdWord} (hop : cmdOp w = 0#4) (hzero : mustBeZeroBroken w = false) : w = 0#40 := by
  obtain ⟨hval, harg⟩ : cmdVal w = 0#32 ∧ cmdArg w = 0#4 := by simpa [mustBeZeroBroken, hop] using hzero
  exact (cmdWordOf_eq hop harg hval).symm

/-- What a valid command word can do: the result of its operation, and the word or its operation code. -/
inductive Commanded (p : Params) (a : Arch) (w : CmdWord) : CommandResult → Prop where
  | init (hw : w = 0#40) : Commanded p a w (writes true (initEffect p))
  | setfreq (c : Chan) (v : FreqOperand) (hop : cmdOp w = 1#4) :
      Commanded p a w (writes false (setfreqEffect p c v a))
  | setphase (c : Chan) (x : PhaseOperand) (hop : cmdOp w = 3#4) :
      Commanded p a w (writes false (setphaseEffect p c x a))
  | setmode (m : Mode) (hop : cmdOp w = 5#4) : Commanded p a w (writes false (setmodeEffect p m a))
  | setfsel (c : Chan) (hop : cmdOp w = 7#4) : Commanded p a w (writes false (setfselEffect p c a))
  | setpsel (c : Chan) (hop : cmdOp w = 9#4) : Commanded p a w (writes false (setpselEffect p c a))
  | reset (hold : Bool) (hw : w = if hold then 0xB100000000#40 else 0xB000000000#40) :
      Commanded p a w (writes false (resetEffect p hold a))
  | accessor (v : BitVec 32) (hop : cmdOp w ∈ [2#4, 4#4, 6#4, 8#4, 10#4]) : Commanded p a w (returns v a)

section
variable {p : Params} {a : Arch} {w : CmdWord}

theorem perform_of_rejected {st : Status} (hv : validate a.initDone w = some st) :
    perform p a w = ⟨false, [], ⟨st, 0#32⟩, a⟩ := by simp only [perform, hv]

/-- A valid word does one of the eight things, by its operation code. -/
theorem perform_commanded (hv : validate a.initDone w = none) : Commanded p a w (perform p a w) := by
  obtain ⟨hzero, -⟩ := validate_eq_none hv
  match hop : (cmdOp w).toNat with
  | 0 =>
    simp only [perform, hv, hop]
    exact .init (init_word (BitVec.eq_of_toNat_eq hop) hzero)
  | 1 =>
    simp only [perform, hv, hop]
    exact .setfreq _ _ (BitVec.eq_of_toNat_eq hop)
  | 3 =>
    simp only [perform, hv, hop]
    exact .setphase _ _ (BitVec.eq_of_toNat_eq hop)
  | 5 =>
    simp only [perform, hv, hop]
    exact .setmode _ (BitVec.eq_of_toNat_eq hop)
  | 7 =>
    simp only [perform, hv, hop]
    exact .setfsel _ (BitVec.eq_of_toNat_eq hop)
  | 9 =>
    simp only [perform, hv, hop]
    exact .setpsel _ (BitVec.eq_of_toNat_eq hop)
  | 11 =>
    simp only [perform, hv, hop]
    exact .reset _ (reset_word (BitVec.eq_of_toNat_eq hop) hzero)
  | 2 | 4 | 6 | 8 | 10 =>
    simp only [perform, hv, hop]
    exact .accessor _ (by simp [← BitVec.toNat_inj, hop])
  | op + 12 => simp [validate, hop] at hv

/-- INIT is valid in every lifecycle state (41_write_commands.md R111). -/
theorem validate_init (initDone : Bool) : validate initDone 0#40 = none := by cases initDone <;> rfl

/-- RESET is valid after INIT, with either operand (60_exceptions.md R150). -/
theorem validate_reset (hold : Bool) :
    validate true (if hold then 0xB100000000#40 else 0xB000000000#40) = none := by cases hold <;> rfl

theorem perform_init (p : Params) (a : Arch) : perform p a 0#40 = writes true (initEffect p) := by
  simp only [perform, validate_init]
  rfl

theorem perform_reset (hi : a.initDone = true) (hold : Bool) :
    perform p a (if hold then 0xB100000000#40 else 0xB000000000#40) = writes false (resetEffect p hold a) := by
  simp only [perform, hi, validate_reset]
  cases hold <;> rfl

/-! How many words (41_write_commands.md R118). -/

theorem resetEffect_words_length (p : Params) (hold : Bool) (a : Arch) :
    (resetEffect p hold a).words.length = if hold then 1 else if resetHeld p a.cw then 1 else 2 := by
  cases hold with
  | true => rfl
  | false =>
    rw [resetEffect_release_words]
    split <;> rfl

/-- Words of different operation codes differ. -/
theorem ne_of_cmdOp_mem {ops : List (BitVec 4)} {w' : CmdWord} (hop : cmdOp w ∈ ops) (hop' : cmdOp w' ∉ ops) :
    w ≠ w' := by
  rintro rfl
  exact hop' hop

theorem Commanded.configures_iff {r : CommandResult} (h : Commanded p a w r) : r.configures = true ↔ w = 0#40 := by
  cases h with
  | init hw => exact iff_of_true rfl hw
  | setfreq _ _ hop | setphase _ _ hop | setmode _ hop | setfsel _ hop | setpsel _ hop =>
    exact iff_of_false Bool.false_ne_true (ne_of_cmdOp_mem (List.mem_singleton.2 hop) (by decide))
  | reset hold hw => exact iff_of_false Bool.false_ne_true (by cases hold <;> simp [hw])
  | accessor v hop => exact iff_of_false Bool.false_ne_true (ne_of_cmdOp_mem hop (by decide))

/-- The word count of a valid command word, by its operation (41_write_commands.md R118). -/
theorem Commanded.words_length {r : CommandResult} (h : Commanded p a w r) :
    r.words.length =
      if cmdOp w = 0#4 then 14
      else if cmdOp w = 1#4 then 3
      else if cmdOp w = 3#4 ∨ cmdOp w = 5#4 ∨ cmdOp w = 7#4 ∨ cmdOp w = 9#4 then 1
      else if w = 0xB100000000#40 then 1
      else if w = 0xB000000000#40 then (if resetHeld p a.cw then 1 else 2)
      else 0 := by
  cases h with
  | init hw =>
    subst hw
    rfl
  | setfreq _ _ hop | setphase _ _ hop | setmode _ hop | setfsel _ hop | setpsel _ hop =>
    rw [hop]
    rfl
  | reset hold hw =>
    rw [writes, resetEffect_words_length]
    subst hw
    cases hold <;> rfl
  | accessor v hop =>
    have hhold : w ≠ 0xB100000000#40 := ne_of_cmdOp_mem hop (by decide)
    have hrelease : w ≠ 0xB000000000#40 := ne_of_cmdOp_mem hop (by decide)
    simp only [List.mem_cons, List.not_mem_nil, or_false] at hop
    rcases hop with hop | hop | hop | hop | hop <;> simp [hop, hhold, hrelease, returns]

end

/-- Settles O52: a rejected word emits nothing and is not INIT's, which is always valid; a valid one is counted by its
operation. -/
theorem wordCounts : Obligations.WordCounts := by
  unfold Obligations.WordCounts
  intro p a w
  cases hv : validate a.initDone w with
  | some st =>
    have hne : w ≠ 0#40 := by
      rintro rfl
      rw [validate_init] at hv
      contradiction
    simp [perform_of_rejected hv, hne]
  | none =>
    have h := perform_commanded (p := p) hv
    exact ⟨h.configures_iff, h.words_length.trans (if_neg (not_not_intro rfl)).symm⟩

/-! The laws (41_write_commands.md R120). -/

section
variable {p : Params} {a : Arch}

theorem setmodeEffect_setmodeEffect (p : Params) (m : Mode) (a : Arch) :
    setmodeEffect p m (setmodeEffect p m a).arch = setmodeEffect p m a := by
  simp [setmodeEffect, applyMode_applyMode]

/-- Selecting channel 1 and then channel 0 restores a control word whose channel was 0. -/
theorem applySel_ch1_ch0 (hp : p.bit.wf = true) {which : Which} {cw : Word16}
    (h : cw.getLsbD (selBit p which) = false) : applySel p (applySel p cw which .ch1) which .ch0 = cw :=
  (setBit_setBit (selBit_lt hp which) cw true false).trans (setBit_eq_self (selBit_lt hp which) h)

theorem fselect_ne_pselect (hc : p.Conditions) : p.bit.fselect ≠ p.bit.pselect := by
  have distinct := hc.bit_nodup
  simp only [BitPos.toList, List.nodup_cons, List.mem_cons, List.not_mem_nil, or_false, not_or] at distinct
  obtain ⟨-, -, ⟨fselect_ne_pselect, -⟩, -⟩ := distinct
  exact fselect_ne_pselect

/-- A control word that agrees with the shadow registers is of the control format. -/
theorem ArchInv.topCode_cw (ha : ArchInv p a) (hc : p.Conditions) : topCode a.cw = topCode p.sel.ctrl := by
  rw [ha.cw_eq hc]
  exact topCode_of_ctrlFormat hc (ctrlWord_ctrlFormat hc _)

theorem topCode_freqHalfWord (hc : p.Conditions) (c : Chan) (h : Half) :
    topCode (freqHalfWord p c h) = topCode (p.sel.freq c) := topCode_of_freqFormat (freqHalfWord_format hc c h)

theorem Commanded.archInv {w : CmdWord} {r : CommandResult} (h : Commanded p a w r) (ha : ArchInv p a)
    (hc : p.Conditions) : ArchInv p r.arch := by
  cases h with
  | init _ => exact .init hc
  | setfreq c v _ => exact ha.setChan hc ⟨rfl, ha.phaseWord c⟩
  | setphase c x _ => exact ha.setChan hc ⟨ha.freqWord c, rfl⟩
  | setmode m _ => exact ha.setmode hc m
  | setfsel c _ => exact ha.setfsel hc c
  | setpsel c _ => exact ha.setpsel hc c
  | reset hold _ =>
    rw [writes, resetEffect_arch]
    exact ha.setReset hc hold
  | accessor _ _ => exact ha

/-- No command word, valid or rejected, breaks the invariants I2 to I7. -/
theorem ArchInv.performed (ha : ArchInv p a) (hc : p.Conditions) (w : CmdWord) : ArchInv p (perform p a w).arch := by
  cases hv : validate a.initDone w with
  | some st => exact (perform_of_rejected (p := p) hv).symm ▸ ha
  | none => exact (perform_commanded hv).archInv ha hc

/-- The invariants I5 and I7 fix `B28`, `HLB` and the unnamed bits. -/
theorem ArchInv.fixedBits_eq {b : Arch} (ha : ArchInv p a) (hb : ArchInv p b) {n : Nat}
    (hn : n = p.bit.b28 ∨ n = p.bit.hlb ∨ n ∉ p.bit.toList) : b.cw.getLsbD n = a.cw.getLsbD n := by
  rcases hn with rfl | rfl | hn
  · rw [ha.b28Set, hb.b28Set]
  · rw [ha.hlbClear, hb.hlbClear]
  · rw [ha.unnamedClear n hn, hb.unnamedClear n hn]

end

/-- Settles O53: (a) to (e) by the operation on the control word that each command is, (f) because every command keeps
the invariants that fix these bits. -/
theorem lawsOfTheSource : Obligations.LawsOfTheSource := by
  unfold Obligations.LawsOfTheSource
  intro p a hp _ ha
  have hc := Params.conditions_of_wf hp
  have hbit := Params.bit_wf hp
  refine ⟨fun m => setmodeEffect_setmodeEffect p m a, fun hch0 => ?selections, fun c => ?selects, fun v => ?words,
    ?reset, fun w n _ hn => ?fixed⟩
  case selections =>
    have hclear : a.cw.getLsbD p.bit.fselect = false := by rw [ha.fselMirror, hch0]; rfl
    exact applySel_ch1_ch0 hbit (which := .freq) hclear
  case selects =>
    have hne := fselect_ne_pselect hc
    refine ⟨?_, rfl, ?_, rfl⟩
    · exact (applySel_getLsbD p a.cw .freq c _ (selBit_lt hbit .freq)).trans (if_neg hne.symm)
    · exact (applySel_getLsbD p a.cw .phase c _ (selBit_lt hbit .phase)).trans (if_neg hne)
  case words =>
    exact ⟨_, _, _, rfl, ha.topCode_cw hc, topCode_freqHalfWord hc .ch0 _, topCode_freqHalfWord hc .ch0 _,
      freqHalfWord_half hc .ch0 _, freqHalfWord_half hc .ch0 _⟩
  case reset =>
    have hheld : resetHeld p (resetEffect p true a).arch.cw = true := resetHeld_applyReset hc a.cw true
    refine ⟨?_, ?_⟩
    · simp [resetEffect_words_length, hheld]
    · rw [resetEffect_arch p false]
      exact resetHeld_applyReset hc _ false
  case fixed => exact ha.fixedBits_eq (ha.performed hc w) hn

end Sys2Proof.Machine
end

section
/-! PROOFS. The document's two runs (42_sequencer.md R141 (c), (d)): the sequencer carries each command word to the
command level's result. -/

namespace Sys2Proof.Machine

open Sys2Proof

/-- An idle block that takes one write command, every call completing at once (42_sequencer.md R140). -/
theorem run_write {s : State} {w : CmdWord} {rest : List CmdWord} {cfg : Bool} {e : Effect} (hp : s.params.wf = true)
    (hidle : idle s) (hs : s.script = []) (hcaller : s.caller = w :: rest)
    (hperform : perform s.params s.arch w = writes cfg e) (he : e.words ≠ []) :
    run (1 + (4 * e.words.length + if cfg then 1 else 0)) s
      = .next (afterCommand (writes cfg e) { s with caller := rest }) := by
  rw [← callCount_writes cfg he, ← hperform]
  exact microStepsAgreeWithCommandLevel s w rest hp hidle hs hcaller

/-- From a released reset, RESET 1 and then RESET 0 restore the registers, and the second word is the old control word
(41_write_commands.md R117). -/
theorem resetEffect_release_hold {p : Params} (hp : p.wf = true) {a : Arch} (h : resetHeld p a.cw = false) :
    resetEffect p false (resetEffect p true a).arch = ⟨[a.cw], a⟩ := by
  have hlt := reset_lt (Params.bit_wf hp)
  have hheld := resetHeld_applyReset (Params.conditions_of_wf hp) a.cw true
  have hrestored : applyReset p (applyReset p a.cw true) false = a.cw :=
    (setBit_setBit hlt a.cw true false).trans (setBit_eq_self hlt h)
  simp [resetEffect, hheld, hrestored]

/-- Settles O56: RESET 1 sets the bit `RESET` of 0x2000, RESET 0 restores the registers; each is one word and its
frame. -/
theorem resetScenarioTwoFrames : Obligations.ResetScenarioTwoFrames := by
  unfold Obligations.ResetScenarioTwoFrames
  intro s hparams hidle hi hcw hs hcaller
  have hp : s.params.wf = true := hparams ▸ default_wf
  have hreleased : resetHeld s.params s.arch.cw = false := by
    rw [hparams, hcw]
    decide
  have hset : applyReset s.params 0x2000#16 true = 0x2100#16 := by
    rw [hparams]
    decide
  have hhold := run_write hp hidle hs hcaller (perform_reset hi true) (List.cons_ne_nil _ _)
  have hrelease := (perform_reset (p := s.params) (a := (resetEffect s.params true s.arch).arch) hi false).trans
    (congrArg (writes false) (resetEffect_release_hold hp hreleased))
  have hrun := (run_add hhold).trans (run_write hp hidle hs rfl hrelease (List.cons_ne_nil _ _))
  refine ⟨_, hrun, rfl, ?trace, ?responses⟩
  case trace =>
    simp [afterCommand, writes, commandTrace, framesOf, frameOf, highByte, lowByte, resetEffect_hold, hset, hcw]
  case responses => simp [afterCommand, writes]

theorem initEffect_default : initEffect Params.default =
    ⟨[0x2000#16, 0x2100#16, 0x2100#16, 0x69F1#16, 0x4000#16, 0x2100#16, 0xA9F1#16, 0x8000#16, 0xC000#16, 0xE000#16,
        0x2000#16, 0x2000#16, 0x2000#16, 0x2000#16],
      ⟨0x2000#16, ⟨128000#32, 0#16, 10737#28, 0#12⟩, ⟨128000#32, 0#16, 10737#28, 0#12⟩, .ch0, .ch0, .sine, true⟩⟩ := by
  decide

/-- Settles O57: INIT's effect, evaluated with the default parameters, is what the sequencer carries out. -/
theorem initFromPowerUp : Obligations.InitFromPowerUp := by
  unfold Obligations.InitFromPowerUp
  have hperform := (perform_init Params.default powerUpArch).trans (congrArg (writes true) initEffect_default)
  have hrun := run_write (s := powerUp Params.default [0#40] []) default_wf ⟨rfl, rfl, rfl⟩ rfl rfl hperform
    (List.cons_ne_nil _ _)
  exact ⟨_, hrun, rfl, rfl, rfl, rfl, rfl, rfl, rfl⟩

end Sys2Proof.Machine
end

section
/-! PROOFS. The listener on the wire (42_sequencer.md R131): a word's frame tells the word, and the trace stays well
framed, with the chip what the receiver makes of the words in it (20_memory.md R48, R57). -/

namespace Sys2Proof.Machine

open Sys2Proof

/-! The listener on a longer trace. -/

theorem hearAll_append (h : Heard) (xs ys : List Event) :
    hearAll h (xs ++ ys) = (hearAll h xs).bind fun h' => hearAll h' ys := by
  induction xs generalizing h with
  | nil => rfl
  | cons e es ih =>
    cases he : hear h e with
    | none => simp [hearAll, he]
    | some h' => simp [hearAll, he, ih]

theorem heardOf_concat {es : List Event} {e : Event} {h h' : Heard} (hes : heardOf es = some h)
    (he : hear h e = some h') : heardOf (es ++ [e]) = some h' := by
  rw [heardOf] at hes
  rw [heardOf, hearAll_append, hes]
  simp [hearAll, he]

/-- Between two frames, a frame is heard as its word, high byte first (20_memory.md R44). -/
theorem hearAll_frameOf (ws : List Word16) (w : Word16) : hearAll ⟨ws, none⟩ (frameOf w) = some ⟨ws ++ [w], none⟩ := by
  simp [frameOf, hearAll, hear]

theorem hearAll_framesOf (heard ws : List Word16) :
    hearAll ⟨heard, none⟩ (framesOf ws) = some ⟨heard ++ ws, none⟩ := by
  induction ws generalizing heard with
  | nil => simp [framesOf, hearAll]
  | cons w ws ih => simp [framesOf, hearAll_append, hearAll_frameOf, ih]

/-- Settles O29: `configure()` is no part of a frame, and each frame is heard as its word. -/
theorem framesAreHeardAsTheirWords : Obligations.FramesAreHeardAsTheirWords := by
  unfold Obligations.FramesAreHeardAsTheirWords
  intro cfg ws
  cases cfg with
  | false => exact hearAll_framesOf [] ws
  | true => exact hearAll_framesOf [] ws

/-! The trace of the machine. -/

/-- The bytes of the frame that the sequencer is in, if it is in one. -/
def openFrame (s : State) : Option (List Byte) := if s.busy && s.seq.ph.inFrame then some s.rxBytes else none

theorem openFrame_of_outside {s : State} (h : s.seq.ph.inFrame = false) : openFrame s = none := by
  simp [openFrame, h]

theorem openFrame_of_inside {s : State} (hb : s.busy = true) (h : s.seq.ph.inFrame = true) :
    openFrame s = some s.rxBytes := by
  simp [openFrame, hb, h]

/-- A step that enters one event keeps the invariant when the listener hears what the step did. -/
theorem TraceInv.of_event {s t : State} {e : Event} {h h' : Heard} (hs : heardOf s.trace = some h)
    (he : hear h e = some h') (htrace : t.trace = s.trace ++ [e]) (hopen : h'.openFrame = openFrame t)
    (hdev : t.dev = receiveAll t.params h'.words Dev.empty) : TraceInv t :=
  ⟨h', htrace ▸ heardOf_concat hs he, hopen, hdev⟩

theorem TraceInv.setPorts {s : State} (hs : TraceInv s) (rsp : Option Response) (log : List Response)
    (caller : List CmdWord) (script : List Reply) : TraceInv (s.setPorts rsp log caller script) := ⟨hs.heard⟩

/-- A command starts outside every frame, as it found the idle block. -/
theorem TraceInv.startWrite {s : State} (hs : TraceInv s) (hb : s.busy = false) (cfg : Bool) (e : Effect) :
    TraceInv (startWrite cfg e s) := by
  obtain ⟨h, hheard, hopen, hdev⟩ := hs.heard
  have hclosed : openFrame (Machine.startWrite cfg e s) = none := openFrame_of_outside (by cases cfg <;> rfl)
  exact ⟨h, hheard, Eq.trans (by simpa [hb] using hopen) hclosed.symm, hdev⟩

/-! The end of a frame (42_sequencer.md R133). -/

@[simp] theorem advance_trace (s : State) : (advance s).trace = s.trace := by
  unfold advance
  split
  · rfl
  · exact finish_trace s

@[simp] theorem advance_dev (s : State) : (advance s).dev = s.dev := by
  unfold advance
  split
  · rfl
  · exact finish_dev s

theorem advance_inFrame (s : State) : (advance s).seq.ph.inFrame = false := by
  unfold advance
  split
  · rfl
  · rfl

/-- Inside a frame there is a word being framed, and the chip's input holds its bytes already sent. -/
theorem SequencerInv.rxBytes_eq {s : State} (hq : SequencerInv s) (hb : s.busy = true)
    (hin : s.seq.ph.inFrame = true) : ∃ w, currentWord s = some w ∧ s.rxBytes = bytesSent s.seq.ph w := by
  obtain ⟨-, hidx, -⟩ := hq.position hb
  have hw : currentWord s = some s.seq.words[s.seq.idx] := List.getElem?_eq_getElem hidx
  exact ⟨_, hw, hq.sent hb hin _ hw⟩

/-- Each completed call enters the event that the listener expects next; the one that ends a frame gives the receiver
the word that the listener has heard. -/
theorem TraceInv.completed {s t : State} (hp : s.params.wf = true) (hq : SequencerInv s) (hs : TraceInv s)
    (hb : s.busy = true) (h : Completed s t) : TraceInv t := by
  obtain ⟨⟨words, frame⟩, hheard, hframe, hdev⟩ := hs.heard
  have hopen : frame = openFrame s := hframe
  have houtside (hout : s.seq.ph.inFrame = false) : frame = none := hopen.trans (openFrame_of_outside hout)
  have hinside (hin : s.seq.ph.inFrame = true) : ∃ w, currentWord s = some w ∧ s.rxBytes = bytesSent s.seq.ph w
      ∧ frame = some (bytesSent s.seq.ph w) := by
    obtain ⟨w, hw, hbytes⟩ := hq.rxBytes_eq hb hin
    exact ⟨w, hw, hbytes, by rw [hopen, openFrame_of_inside hb hin, hbytes]⟩
  cases h with
  | configured hph =>
    obtain rfl := houtside (by rw [hph]; rfl)
    exact .of_event hheard rfl rfl (openFrame_of_outside rfl).symm hdev
  | begun hph =>
    obtain rfl := houtside (by rw [hph]; rfl)
    exact .of_event hheard (h' := ⟨words, some []⟩) rfl rfl (by simp [openFrame, hb, Phase.inFrame]) hdev
  | sentHigh w hph hw =>
    obtain ⟨v, -, hbytes, rfl⟩ := hinside (by rw [hph]; rfl)
    exact .of_event hheard (h' := ⟨words, some [highByte w]⟩) (by simp [hear, hph, bytesSent]) rfl
      (by simp [openFrame, hb, hbytes, hph, bytesSent, Phase.inFrame]) hdev
  | sentLow w hph hw =>
    obtain ⟨v, hv, hbytes, rfl⟩ := hinside (by rw [hph]; rfl)
    obtain rfl : w = v := Option.some.inj (hw.symm.trans hv)
    exact .of_event hheard (h' := ⟨words, some [highByte w, lowByte w]⟩) (by simp [hear, hph, bytesSent]) rfl
      (by simp [openFrame, hb, hbytes, hph, bytesSent, Phase.inFrame]) hdev
  | ended d hph hd =>
    obtain ⟨w, -, hbytes, rfl⟩ := hinside (by rw [hph]; rfl)
    obtain rfl : receive s.params w s.dev = d := by
      rw [hbytes, hph, bytesSent, deliver_bytes (s := doEndFrame s) hp w] at hd
      exact congrArg State.dev (Host.Outcome.next.inj hd)
    refine .of_event (e := .frameEnd) hheard (h' := ⟨words ++ [w], none⟩) (by simp [hear, hph, bytesSent]) (by simp)
      (openFrame_of_outside (advance_inFrame _)).symm ?_
    simp [hdev, receiveAll]

/-- What the trace invariant rests on, with it. -/
structure FramingInv (s : State) : Prop where
  paramsWf : s.params.wf = true
  sequencer : SequencerInv s
  trace : TraceInv s

/-- Settles O34: a command starts outside every frame, and each completed call enters the one event that the listener
can hear next. -/
theorem traceInvariantIsKept : Obligations.TraceInvariantIsKept := by
  unfold Obligations.TraceInvariantIsKept
  intro s t hp hq hs h
  have kept : FramingInv t := by
    refine step_keeps ?_ ?_ ?_ (FramingInv.mk hp hq hs) h
    · rintro s rsp log caller script ⟨hp, hq, hs⟩
      exact ⟨hp, hq.setPorts rsp log caller script, hs.setPorts rsp log caller script⟩
    · rintro s cfg e ⟨hp, _, hs⟩ hb hstarts
      exact ⟨hp, .startWrite hstarts, hs.startWrite hb cfg e⟩
    · rintro s t ⟨hp, hq, hs⟩ hb hcompleted
      exact ⟨hcompleted.params ▸ hp, hq.completed hb hcompleted, hs.completed hp hq hb hcompleted⟩
  exact kept.trace

end Sys2Proof.Machine
end

section
/-! PROOFS. The sequencer's steps one by one (42_sequencer.md R133, R143): the block that waits, the end of a frame, the
commit, and the run of a word list. -/

namespace Sys2Proof.Machine

open Sys2Proof

/-- Settles O7: with an empty command port there is nothing to accept. -/
theorem idleBlockWaits : Obligations.IdleBlockWaits := by
  unfold Obligations.IdleBlockWaits
  intro s hb hc
  simp [step, microStep, acceptNext, clearRsp, hb, hc]

/-- Settles O6: the two bytes put together again are the word, which performs its instruction (`exec_performed`); then
the sequencer advances. -/
theorem stepRunsTheReceivedWord : Obligations.StepRunsTheReceivedWord := by
  unfold Obligations.StepRunsTheReceivedWord
  intro s w i hb hs hph hbytes hd
  obtain ⟨t, ht, -⟩ := exec_performed i (doEndFrame (clearRsp s))
  have hstep : step s = stepFrameEnd (clearRsp s) := by simp [step, microStep, serve, completeCall, hb, hs, hph]
  have hdeliver : deliver [highByte w, lowByte w] (doEndFrame (clearRsp s)) = exec i (doEndFrame (clearRsp s)) := by
    simp [deliver, hd]
  exact ⟨t, ht, by rw [hstep, stepFrameEnd, clearRsp_rxBytes, hbytes, hdeliver, ht]⟩

/-- Settles O23: the run of a started command (`run_startWrite`), whose end commits the pending copy and answers. -/
theorem wordListIsFramedAndCommitted : Obligations.WordListIsFramedAndCommitted := by
  unfold Obligations.WordListIsFramedAndCommitted
  intro s cfg ws a hp hs hws
  rw [run_startWrite cfg (e := ⟨ws, a⟩) hws hp hs]
  rfl

/-- What a completed call does to a running command: the command goes on with its registers untouched, or this was its
last `endFrame()` and the command ends. -/
theorem Completed.runs_or_finishes {s t : State} (h : Completed s t) (hb : s.busy = true) :
    (t.busy = true ∧ t.arch = s.arch ∧ t.pending = s.pending ∧ t.rsp = s.rsp ∧ t.rspLog = s.rspLog)
    ∨ (s.seq.ph = .frameEnd ∧ s.seq.words.length ≤ s.seq.idx + 1 ∧ ∃ d, t = finish { doEndFrame s with dev := d }) := by
  cases h with
  | configured _ => exact .inl ⟨hb, rfl, rfl, rfl, rfl⟩
  | begun _ => exact .inl ⟨hb, rfl, rfl, rfl, rfl⟩
  | sentHigh _ _ _ => exact .inl ⟨hb, rfl, rfl, rfl, rfl⟩
  | sentLow _ _ _ => exact .inl ⟨hb, rfl, rfl, rfl, rfl⟩
  | ended d hph _ =>
    unfold advance
    split
    next => exact .inl ⟨hb, rfl, rfl, rfl, rfl⟩
    next hlast => exact .inr ⟨hph, Nat.not_lt.1 hlast, d, rfl⟩

theorem Completed.caller {s t : State} (h : Completed s t) : t.caller = s.caller := by
  cases h with
  | configured _ => rfl
  | begun _ => rfl
  | sentHigh _ _ _ => rfl
  | sentLow _ _ _ => rfl
  | ended d _ _ =>
    unfold advance
    split
    · rfl
    · simp

/-- Settles O28: a step of a busy block serves the call without completing it, or completes it
(`Completed.runs_or_finishes`). -/
theorem stateChangesOnlyAtCommit : Obligations.StateChangesOnlyAtCommit := by
  unfold Obligations.StateChangesOnlyAtCommit
  intro s t hb h
  cases step_stepped h with
  | waited hidle _ => simp [hb] at hidle
  | accepted _ _ _ hidle _ _ _ => simp [hb] at hidle
  | served sc _ _ => exact ⟨rfl, .inl ⟨hb, rfl, rfl, rfl, rfl⟩⟩
  | called sc _ _ _ _ hcompleted =>
    refine ⟨hcompleted.caller, ?_⟩
    rcases hcompleted.runs_or_finishes hb with hruns | ⟨hph, hlast, d, rfl⟩
    · exact .inl hruns
    · exact .inr ⟨hph, hlast, by simp⟩

end Sys2Proof.Machine
end

section
/-! PROOFS. The transport (42_sequencer.md R135, R136, R138): the state steps as if there were no script, and the script
says only when an outstanding call completes. -/

namespace Sys2Proof.Machine

open Sys2Proof

/-- The state with another script of the transport. -/
def State.withScript (s : State) (sc : List Reply) : State := { s with script := sc }

/-- An outcome whose next state, if it is one, has another script. -/
def mapScript (sc : List Reply) : Result → Result
  | .next t => .next (t.withScript sc)
  | .fault r => .fault r
  | .refused r => .refused r

theorem State.withScript_self {s : State} {sc : List Reply} (h : s.script = sc) : s.withScript sc = s := by
  subst h
  rfl

theorem mapScript_mapScript (sc sc' : List Reply) (r : Result) : mapScript sc (mapScript sc' r) = mapScript sc r := by
  cases r <;> rfl

/-! The operations commute with a change of the script. -/

theorem commit_withScript (s : State) (sc : List Reply) : commit (s.withScript sc) = (commit s).withScript sc := by
  simp only [commit, State.withScript]
  split <;> rfl

theorem advance_withScript (s : State) (sc : List Reply) : advance (s.withScript sc) = (advance s).withScript sc := by
  by_cases hnext : s.seq.idx + 1 < s.seq.words.length
  · rw [advance_of_lt hnext, advance_of_lt (s := s.withScript sc) hnext]
    rfl
  · rw [advance_of_last hnext, advance_of_last (s := s.withScript sc) hnext, finish, commit_withScript]
    rfl

theorem needInit_of_not_initDone {s : State} (hi : s.arch.initDone = false) (k : Result) :
    needInit s k = .next (reject .errNotInit s) := by
  simp [needInit, hi]

theorem needInit_withScript {s : State} {sc : List Reply} {k k' : Result} (hk : k' = mapScript sc k) :
    needInit (s.withScript sc) k' = mapScript sc (needInit s k) := by
  subst hk
  cases hi : s.arch.initDone with
  | false =>
    rw [needInit_of_not_initDone hi, needInit_of_not_initDone (s := s.withScript sc) hi]
    rfl
  | true => rw [needInit_of_initDone hi, needInit_of_initDone (s := s.withScript sc) hi]

theorem withChan_withScript (c : BitVec 4) {s : State} {sc : List Reply} {k k' : Chan → Result}
    (hk : ∀ ch, k' ch = mapScript sc (k ch)) : withChan c (s.withScript sc) k' = mapScript sc (withChan c s k) := by
  unfold withChan
  cases chanOf c with
  | none => rfl
  | some ch => exact needInit_withScript (hk ch)

theorem withMode_withScript (m : BitVec 4) {s : State} {sc : List Reply} {k k' : Mode → Result}
    (hk : ∀ md, k' md = mapScript sc (k md)) : withMode m (s.withScript sc) k' = mapScript sc (withMode m s k) := by
  unfold withMode
  cases modeOf m with
  | none => rfl
  | some md => exact needInit_withScript (hk md)

theorem exec_withScript (i : Instr) (s : State) (sc : List Reply) :
    exec i (s.withScript sc) = mapScript sc (exec i s) := by
  cases i with
  | init => rfl
  | setfreq c _ => exact withChan_withScript c fun _ => rfl
  | getfreq c => exact withChan_withScript c fun _ => rfl
  | setphase c _ => exact withChan_withScript c fun _ => rfl
  | getphase c => exact withChan_withScript c fun _ => rfl
  | setmode m => exact withMode_withScript m fun _ => rfl
  | getmode => exact needInit_withScript rfl
  | setfsel c => exact withChan_withScript c fun _ => rfl
  | getfsel => exact needInit_withScript rfl
  | setpsel c => exact withChan_withScript c fun _ => rfl
  | getpsel => exact needInit_withScript rfl
  | reset _ => exact needInit_withScript rfl
  | w16Ctrl _ => rfl
  | w16Freq0 _ => rfl
  | w16Freq1 _ => rfl
  | w16Phase0 _ => rfl
  | w16Phase1 _ => rfl

theorem acceptNext_withScript (s : State) (sc : List Reply) :
    acceptNext (s.withScript sc) = mapScript sc (acceptNext s) := by
  simp only [acceptNext, State.withScript]
  split
  next => rfl
  next w rest _ =>
    simp only [accept]
    split
    next i _ => exact exec_withScript i { s with caller := rest } sc
    next => rfl

theorem deliver_withScript (bytes : List Byte) (s : State) (sc : List Reply) :
    deliver bytes (s.withScript sc) = mapScript sc (deliver bytes s) := by
  simp only [deliver, State.withScript]
  split
  next hi lo =>
    split
    next i _ => exact exec_withScript i s sc
    next => rfl
  next => rfl

theorem stepFrameEnd_withScript (s : State) (sc : List Reply) :
    stepFrameEnd (s.withScript sc) = mapScript sc (stepFrameEnd s) := by
  obtain ⟨d, hd, hend⟩ := stepFrameEnd_eq s
  have hd' : deliver s.rxBytes (doEndFrame (s.withScript sc)) = mapScript sc (.next { doEndFrame s with dev := d }) :=
    hd ▸ deliver_withScript s.rxBytes (doEndFrame s) sc
  have hend' : stepFrameEnd (s.withScript sc)
      = .next (advance (State.withScript { doEndFrame s with dev := d } sc)) := by
    rw [stepFrameEnd, show (s.withScript sc).rxBytes = s.rxBytes from rfl, hd', mapScript]
  rw [hend, hend', advance_withScript, mapScript]

theorem completeCall_withScript (s : State) (sc : List Reply) :
    completeCall (s.withScript sc) = mapScript sc (completeCall s) := by
  simp only [completeCall, State.withScript, currentWord]
  split
  next => rfl
  next => rfl
  next => rfl
  next => split <;> rfl
  next => split <;> rfl
  next => exact stepFrameEnd_withScript s sc

/-! A step under each script: the script matters to a busy block alone, which either waits or completes its call. -/

section
variable {s : State}

theorem step_withScript_of_idle (hb : s.busy = false) (sc : List Reply) :
    step (s.withScript sc) = mapScript sc (step s) := by
  have hstep (s : State) (hb : s.busy = false) : step s = acceptNext (clearRsp s) := by simp [step, microStep, hb]
  rw [hstep s hb, hstep (s.withScript sc) hb]
  exact acceptNext_withScript (clearRsp s) sc

variable (hb : s.busy = true)
include hb

theorem step_withScript_of_busy (sc : List Reply) : step (s.withScript sc) = serve ((clearRsp s).withScript sc) := by
  rw [step, microStep, if_pos (show (s.withScript sc).busy = true from hb)]
  rfl

/-- Beyond the script's end a call completes at once. -/
theorem step_withScript_nil : step (s.withScript []) = mapScript [] (completeCall (clearRsp s)) := by
  rw [step_withScript_of_busy hb, ← completeCall_withScript]
  rfl

theorem step_withScript_completes_zero (b : Byte) (rest : List Reply) :
    step (s.withScript (.completes 0 b :: rest)) = mapScript rest (completeCall (clearRsp s)) := by
  rw [step_withScript_of_busy hb, ← completeCall_withScript]
  rfl

theorem step_withScript_completes_succ (n : Nat) (b : Byte) (rest : List Reply) :
    step (s.withScript (.completes (n + 1) b :: rest)) = .next ((clearRsp s).withScript (.completes n b :: rest)) :=
  step_withScript_of_busy hb _

theorem step_withScript_never (later : List Reply) :
    step (s.withScript (.never :: later)) = .next ((clearRsp s).withScript (.never :: later)) :=
  step_withScript_of_busy hb _

end

/-! A call that never completes (42_sequencer.md R138). -/

/-- Settles O26: the first step clears the response port, every later one finds nothing more to change. -/
theorem stuckCallWaitsForEver : Obligations.StuckCallWaitsForEver := by
  unfold Obligations.StuckCallWaitsForEver
  intro s later hb hs k
  have hstep (s : State) (hb : s.busy = true) (hs : s.script = .never :: later) : step s = .next (clearRsp s) := by
    have h := step_withScript_never hb later
    rwa [State.withScript_self hs, State.withScript_self (s := clearRsp s) hs] at h
  induction k generalizing s with
  | zero => exact run_succ_of_next (hstep s hb hs)
  | succ k ih => exact (run_succ_of_next (hstep s hb hs)).trans (ih (clearRsp s) hb hs)

/-! The bytes that the transport returns (42_sequencer.md R136). -/

/-- The same outcome but for the bytes still to be returned. -/
inductive SameButBytes : Result → Result → Prop where
  | next {t : State} {sc : List Reply} (h : eraseMiso sc = eraseMiso t.script) :
      SameButBytes (.next t) (.next (t.withScript sc))
  | fault (f : Fault) : SameButBytes (.fault f) (.fault f)
  | refused (r : Refusal) : SameButBytes (.refused r) (.refused r)

theorem SameButBytes.mapScript {sc sc' : List Reply} (h : eraseMiso sc' = eraseMiso sc) (r : Result) :
    SameButBytes (mapScript sc r) (mapScript sc' r) := by
  cases r with
  | next t => exact .next (t := t.withScript sc) h
  | fault f => exact .fault f
  | refused r => exact .refused r

/-- A step drops the byte of a call that completes, and sees no other. -/
theorem step_sameButBytes (s : State) {sc sc' : List Reply} (h : eraseMiso sc' = eraseMiso sc) :
    SameButBytes (step (s.withScript sc)) (step (s.withScript sc')) := by
  cases hb : s.busy with
  | false =>
    rw [step_withScript_of_idle hb, step_withScript_of_idle hb]
    exact .mapScript h _
  | true =>
    match sc, sc', h with
    | [], [], h => exact step_withScript_nil hb ▸ .mapScript h _
    | .never :: later, .never :: later', h =>
      rw [step_withScript_never hb, step_withScript_never hb]
      exact .mapScript h (.next (clearRsp s))
    | .completes 0 _ :: rest, .completes 0 _ :: rest', h =>
      rw [step_withScript_completes_zero hb, step_withScript_completes_zero hb]
      exact .mapScript (by simpa [eraseMiso] using h) _
    | .completes (n + 1) b :: rest, .completes (n' + 1) b' :: rest', h =>
      rw [step_withScript_completes_succ hb, step_withScript_completes_succ hb]
      exact .mapScript (by simpa [eraseMiso] using h) (.next (clearRsp s))

theorem run_sameButBytes (k : Nat) (s : State) {sc : List Reply} (h : eraseMiso sc = eraseMiso s.script) :
    SameButBytes (run k s) (run k (s.withScript sc)) := by
  induction k generalizing s sc with
  | zero => exact .next h
  | succ k ih =>
    have hstep := step_sameButBytes s h
    rw [State.withScript_self rfl] at hstep
    rw [run_succ, run_succ]
    generalize step s = out, step (s.withScript sc) = out' at hstep
    cases hstep with
    | @next t sc' h' => exact ih t h'
    | fault f => exact .fault f
    | refused r => exact .refused r

/-- Settles O27: the two runs have the same outcome but for the bytes still to be returned (`run_sameButBytes`). -/
theorem returnedBytesDoNotMatter : Obligations.ReturnedBytesDoNotMatter := by
  unfold Obligations.ReturnedBytesDoNotMatter
  intro k s sc h
  have hsame : SameButBytes (run k s) (run k { s with script := sc }) := run_sameButBytes k s h
  generalize run k s = out, run k { s with script := sc } = out' at hsame
  constructor
  · rintro t rfl
    cases hsame with
    | @next _ sc' h' => exact ⟨sc', h', rfl⟩
  · rintro f rfl
    cases hsame with
    | fault _ => rfl

/-! Calls that all complete, each in its own time (42_sequencer.md R135). -/

theorem allComplete_of_suffix {sc sc' : List Reply} (h : sc' <:+ sc) (hsc : allComplete sc = true) :
    allComplete sc' = true := by
  rw [allComplete, List.all_eq_true] at hsc ⊢
  exact fun r hr => hsc r (h.subset hr)

/-- A call that takes `n` waiting steps is completed by the step after them. -/
theorem run_completes {s t : State} {rest : List Reply} (hb : s.busy = true)
    (h : mapScript rest (completeCall (clearRsp s)) = .next t) (n : Nat) (b : Byte) :
    run (n + 1) (s.withScript (.completes n b :: rest)) = .next t := by
  induction n generalizing s with
  | zero => exact run_succ_of_next ((step_withScript_completes_zero hb b rest).trans h)
  | succ n ih =>
    rw [run_succ_of_next (step_withScript_completes_succ hb n b rest)]
    exact ih (s := clearRsp s) hb h

/-- A step under the empty script, where every call completes at once, is made after some waiting under a script in
which every call completes. -/
theorem run_of_step_withScript_nil {s t : State} {sc : List Reply} (hsc : allComplete sc = true)
    (h : step (s.withScript []) = .next t) :
    ∃ k sc', sc' <:+ sc ∧ run k (s.withScript sc) = .next (t.withScript sc') := by
  cases hb : s.busy with
  | false =>
    refine ⟨1, sc, List.suffix_refl sc, run_succ_of_next ?_⟩
    rw [step_withScript_of_idle hb] at h ⊢
    rw [← mapScript_mapScript sc [] (step s), h, mapScript]
  | true =>
    have hcall (sc' : List Reply) : mapScript sc' (completeCall (clearRsp s)) = .next (t.withScript sc') := by
      rw [← mapScript_mapScript sc' [], ← step_withScript_nil hb, h, mapScript]
    match sc, hsc with
    | [], _ => exact ⟨1, [], List.suffix_refl [], run_succ_of_next ((step_withScript_nil hb).trans (hcall []))⟩
    | .completes n b :: rest, _ => exact ⟨n + 1, rest, List.suffix_cons _ _, run_completes hb (hcall rest) n b⟩

/-- The empty script stays empty. -/
theorem script_eq_nil_of_step {s t : State} (h : step (s.withScript []) = .next t) : t.script = [] := by
  obtain ⟨out, hout⟩ : ∃ out, step (s.withScript []) = mapScript [] out := by
    cases hb : s.busy with
    | false => exact ⟨_, step_withScript_of_idle hb []⟩
    | true => exact ⟨_, step_withScript_nil hb⟩
  cases out with
  | next u => exact Host.Outcome.next.inj (h.symm.trans hout) ▸ rfl
  | fault r => simp [h, mapScript] at hout
  | refused r => simp [h, mapScript] at hout

/-- A run under the empty script ends, under a script in which every call completes, in the same state but for the
replies still to come. -/
theorem run_of_run_withScript_nil {k : Nat} {s t : State} {sc : List Reply} (hsc : allComplete sc = true)
    (h : run k (s.withScript []) = .next t) :
    ∃ k' sc', sc' <:+ sc ∧ run k' (s.withScript sc) = .next (t.withScript sc') := by
  induction k generalizing s sc with
  | zero =>
    obtain rfl := Host.Outcome.next.inj h
    exact ⟨0, sc, List.suffix_refl sc, rfl⟩
  | succ k ih =>
    rw [run_succ] at h
    cases hstep : step (s.withScript []) with
    | next u =>
      rw [hstep] at h
      obtain ⟨j, sc₁, hsuffix₁, hrun₁⟩ := run_of_step_withScript_nil hsc hstep
      obtain ⟨k', sc₂, hsuffix₂, hrun₂⟩ := ih (s := u) (allComplete_of_suffix hsuffix₁ hsc)
        (by rwa [State.withScript_self (script_eq_nil_of_step hstep)])
      exact ⟨j + k', sc₂, hsuffix₂.trans hsuffix₁, (run_add hrun₁).trans hrun₂⟩
    | fault r => simp [hstep] at h
    | refused r => simp [hstep] at h

/-- Settles O25: with every call completing at once the command ends in the state of the command level (O24), and the
run under the script ends as that one (`run_of_run_withScript_nil`). -/
theorem slowTransportGivesTheSameResult : Obligations.SlowTransportGivesTheSameResult := by
  unfold Obligations.SlowTransportGivesTheSameResult
  intro s w rest hp hidle hsc hc
  have hfast := microStepsAgreeWithCommandLevel (s.withScript []) w rest hp hidle rfl hc
  obtain ⟨k, sc, hsuffix, hrun⟩ := run_of_run_withScript_nil (s := s) hsc hfast
  exact ⟨k, sc, hsuffix, hrun⟩

end Sys2Proof.Machine
end

section
/-! PROOFS. Rejection (60_exceptions.md R150 to R155): an operand out of range is found before the missing INIT, and a
word that passes every check is performed. -/

namespace Sys2Proof.Machine

open Sys2Proof

/-! Check 2 of validation: an operand out of range, whatever `INIT_DONE` (60_exceptions.md R155). -/

theorem withChan_of_outOfRange {c : BitVec 4} (hc : channelInRange c = false) (s : State) (k : Chan → Result) :
    withChan c s k = .next (reject .errInvalid s) := by
  rw [withChan_eq, hc]
  rfl

theorem withMode_of_outOfRange {m : BitVec 4} (hm : modeInRange m = false) (s : State) (k : Mode → Result) :
    withMode m s k = .next (reject .errInvalid s) := by
  rw [withMode_eq, hm]
  rfl

theorem exec_of_illFormed {i : Instr} (hi : i.wellFormed = false) (s : State) :
    exec i s = .next (reject .errInvalid s) := by
  cases i with
  | setfreq c | getfreq c | setphase c | getphase c | setfsel c | setpsel c => exact withChan_of_outOfRange hi s _
  | setmode m => exact withMode_of_outOfRange hi s _
  | init | getmode | getfsel | getpsel | reset | w16Ctrl | w16Freq0 | w16Freq1 | w16Phase0 | w16Phase1 =>
    exact absurd hi.symm Bool.false_ne_true

/-- Settles O10: the range check of the operand comes before that of `INIT_DONE` (`exec_of_illFormed`). -/
theorem outOfRangeOperandsAreRejected : Obligations.OutOfRangeOperandsAreRejected := by
  unfold Obligations.OutOfRangeOperandsAreRejected
  intro s i hi
  exact exec_of_illFormed hi s

/-! Check 3 of validation: `INIT_DONE` is clear (60_exceptions.md R153). -/

section
variable {s : State} (hinit : s.arch.initDone = false)
include hinit

theorem withChan_of_not_initDone {c : BitVec 4} (hc : channelInRange c = true) (k : Chan → Result) :
    withChan c s k = .next (reject .errNotInit s) := by
  rw [withChan_eq, if_pos hc, needInit_of_not_initDone hinit]

theorem withMode_of_not_initDone {m : BitVec 4} (hm : modeInRange m = true) (k : Mode → Result) :
    withMode m s k = .next (reject .errNotInit s) := by
  rw [withMode_eq, if_pos hm, needInit_of_not_initDone hinit]

theorem exec_of_not_initDone {i : Instr} (hcommand : i.isCommand = true) (hne : i ≠ .init)
    (hi : i.wellFormed = true) : exec i s = .next (reject .errNotInit s) := by
  cases i with
  | init => exact absurd rfl hne
  | setfreq c | getfreq c | setphase c | getphase c | setfsel c | setpsel c =>
    exact withChan_of_not_initDone hinit hi _
  | setmode m => exact withMode_of_not_initDone hinit hi _
  | getmode | getfsel | getpsel | reset => exact needInit_of_not_initDone hinit _
  | w16Ctrl | w16Freq0 | w16Freq1 | w16Phase0 | w16Phase1 => exact absurd hcommand Bool.false_ne_true

end

/-- Settles O11: every command but INIT checks `INIT_DONE`, and an operand in range has passed the check before it
(`exec_of_not_initDone`). -/
theorem commandsBeforeInitAreRejected : Obligations.CommandsBeforeInitAreRejected := by
  unfold Obligations.CommandsBeforeInitAreRejected
  intro s i hinit hcommand hne hi
  exact exec_of_not_initDone hinit hcommand hne hi

/-! A word that passes every check (60_exceptions.md R150). -/

/-- The command level answers OK to a valid word. -/
theorem Commanded.rsp_status {p : Params} {a : Arch} {w : CmdWord} {r : CommandResult} (h : Commanded p a w r) :
    r.rsp.status = .ok := by
  cases h <;> rfl

/-- An acceptance starts the sequencer, or responds at once with the status of the command level. -/
theorem Agrees.busy_or_responds {s : State} {r : CommandResult} {out : Result} (h : Agrees s r out) :
    ∃ t, out = .next t ∧ (t.busy = true ∨ ∃ v, t.rsp = some ⟨r.rsp.status, v⟩) := by
  cases h with
  | responds rsp => exact ⟨_, rfl, .inr ⟨_, rfl⟩⟩
  | starts _ => exact ⟨_, rfl, .inl rfl⟩

section
variable {s : State} {w : CmdWord} (hv : validate s.arch.initDone w = none)
include hv

/-- A valid word starts the sequencer or is answered OK. -/
theorem accept_of_valid : ∃ t, accept w s = .next t ∧ (t.busy = true ∨ ∃ v, t.rsp = some ⟨.ok, v⟩) := by
  have hok : (perform s.params s.arch w).rsp.status = .ok := (perform_commanded hv).rsp_status
  rw [← hok]
  exact (accept_agrees w s).busy_or_responds

theorem accept_ne_reject_of_valid (hidle : s.busy = false) : accept w s ≠ .next (reject .errInvalid s) := by
  intro hreject
  obtain ⟨t, ht, hdone⟩ := accept_of_valid hv
  obtain rfl := Host.Outcome.next.inj (hreject.symm.trans ht)
  rcases hdone with hbusy | ⟨v, hrsp⟩
  · exact Bool.false_ne_true (hidle.symm.trans hbusy)
  · simp [reject, respond] at hrsp

/-- A word that decodes to nothing, or to an ill-formed instruction, would be rejected with ERR_INVALID. -/
theorem decodes_of_valid (hidle : s.busy = false) :
    ∃ i, decode s.params (.cmd40 w) = .ok i ∧ i.wellFormed = true := by
  have hne := accept_ne_reject_of_valid hv hidle
  unfold accept at hne
  cases hd : decode s.params (.cmd40 w) with
  | invalid why => simp [hd] at hne
  | ok i =>
    refine ⟨i, rfl, Bool.of_not_eq_false fun hi => ?_⟩
    rw [hd] at hne
    exact hne (exec_of_illFormed hi s)

end

/-- Settles O8: a failing check is the rejection that validation foretells (`accept_of_validate`); a word that passes
all of them decodes to a well-formed instruction and is performed. -/
theorem validationDecidesTheResponse : Obligations.ValidationDecidesTheResponse := by
  unfold Obligations.ValidationDecidesTheResponse
  intro s w rest hb hc
  rw [step_of_idle hb hc]
  constructor
  · intro st hv
    exact accept_of_validate hv
  · intro hv
    obtain ⟨i, hd, hi⟩ := decodes_of_valid (s := { s with caller := rest, rsp := none }) hv hb
    obtain ⟨t, ht, hdone⟩ := accept_of_valid (s := { s with caller := rest, rsp := none }) hv
    exact ⟨i, t, hd, hi, ht, hdone⟩

end Sys2Proof.Machine
end

section
/-! PROOFS. The constants of the build, and the commands while the chip's reset is held (70_reset_and_hazards.md R174,
R178). -/

namespace Sys2Proof.Machine

open Sys2Proof

/-- Settles O30: neither the start of a command nor the completion of a call writes the parameters. -/
theorem parametersNeverChange : Obligations.ParametersNeverChange := by
  unfold Obligations.ParametersNeverChange
  intro s t h
  exact step_keeps (P := fun u => u.params = s.params) (fun _ _ _ _ _ hs => hs) (fun _ _ _ hs _ _ => hs)
    (fun _ _ hs _ hcompleted => hcompleted.params.trans hs) rfl h

/-! The words of the commands (70_reset_and_hazards.md R178). -/

/-- The word leaves the reset held: it is of another register, or it is a control word with `RESET` set. -/
def KeepsResetHeld (p : Params) (x : Word16) : Prop := topCode x = topCode p.sel.ctrl → resetHeld p x = true

section
variable {p : Params}

theorem keepsResetHeld_of_held {x : Word16} (h : resetHeld p x = true) : KeepsResetHeld p x := fun _ => h

theorem keepsResetHeld_freqHalfWord (hc : p.Conditions) (c : Chan) (h : Half) :
    KeepsResetHeld p (freqHalfWord p c h) := fun hctrl => by
  obtain ⟨ctrl_ne_freq, -, -⟩ := topCode_distinct hc c
  exact absurd (hctrl.symm.trans (topCode_freqHalfWord hc c h)) ctrl_ne_freq

theorem keepsResetHeld_phWord (hc : p.Conditions) (c : Chan) (q : PhaseWord) :
    KeepsResetHeld p (phWord p c q) := fun hctrl => by
  obtain ⟨-, ctrl_ne_phase, -⟩ := topCode_distinct hc c
  exact absurd (hctrl.symm.trans (topCode_of_phaseFormat hc (phWord_format hc c q))) ctrl_ne_phase

/-- A command composes its control words from `CW`, and only INIT and RESET 0 clear `RESET` in them. -/
theorem Commanded.keepsResetHeld {a : Arch} {w : CmdWord} {r : CommandResult} (h : Commanded p a w r)
    (hc : p.Conditions) (hheld : resetHeld p a.cw = true) (hinit : cmdOp w ≠ 0#4) (hrelease : w ≠ 0xB000000000#40) :
    ∀ x ∈ r.words, KeepsResetHeld p x := by
  cases h with
  | init hw => exact absurd (congrArg cmdOp hw) hinit
  | setfreq c v _ =>
    have lo := keepsResetHeld_freqHalfWord hc c ((qf p v).extractLsb' 0 14)
    have hi := keepsResetHeld_freqHalfWord hc c ((qf p v).extractLsb' 14 14)
    simpa [writes, setfreqEffect] using ⟨keepsResetHeld_of_held hheld, lo, hi⟩
  | setphase c x _ => simpa [writes, setphaseEffect] using keepsResetHeld_phWord hc c (qp p x)
  | setmode m _ =>
    have word := keepsResetHeld_of_held ((resetHeld_applyMode hc a.cw m).trans hheld)
    simpa [writes, setmodeEffect] using word
  | setfsel c _ =>
    have word := keepsResetHeld_of_held ((resetHeld_applySel hc a.cw .freq c).trans hheld)
    simpa [writes, setfselEffect] using word
  | setpsel c _ =>
    have word := keepsResetHeld_of_held ((resetHeld_applySel hc a.cw .phase c).trans hheld)
    simpa [writes, setpselEffect] using word
  | reset hold hw =>
    cases hold with
    | true => simpa [writes, resetEffect_hold] using keepsResetHeld_of_held (resetHeld_applyReset hc a.cw true)
    | false => exact absurd hw hrelease
  | accessor v _ => simp [returns]

theorem resetHeld_of_parked {a : Arch} (h : lifecycle p a = .parked) : resetHeld p a.cw = true := by
  unfold lifecycle at h
  split at h
  · split at h
    next hheld => exact hheld
    · contradiction
  · contradiction

end

/-- Settles O51: a rejected word emits nothing; a valid one, but INIT and RESET 0, emits control words made from a `CW`
with `RESET` set that leave the bit as it is, or set it. -/
theorem controlWordsHoldTheResetWhileParked : Obligations.ControlWordsHoldTheResetWhileParked := by
  unfold Obligations.ControlWordsHoldTheResetWhileParked
  intro p a w x hp _ hparked hinit hrelease hx
  cases hv : validate a.initDone w with
  | some st => simp [perform_of_rejected hv] at hx
  | none =>
    have hc := Params.conditions_of_wf hp
    exact (perform_commanded hv).keepsResetHeld hc (resetHeld_of_parked hparked) hinit hrelease x hx

end Sys2Proof.Machine
end
